-- ==== Sys2Proof/Word.lean ====
section
/-! DEFINITION. The byte and word types of the block (00_scope.md rule R7: every value is an unsigned natural
number unless a width is stated). -/

namespace Sys2Proof

/-- One byte of IN or OUT (20_memory.md rules R33, R34). -/
abbrev Byte := BitVec 8

/-- A 32-bit host register word (10_state.md rule R14) or HUF8 pool word (rule R28). -/
abbrev Word32 := BitVec 32

end Sys2Proof
end

