-- ==== Sys2Proof/Config.lean ====
section
/-! DEFINITION. The implementation parameters of 00_scope.md rule R6, each with the default the rule gives, and the
free values: constants without a body that stand for what the spec leaves unspecified. -/

namespace Sys2Proof

/-- HUF8_POOL_ORDER: how the Huf8 bit pool is cut from bytes (20_memory.md rule R38). -/
inductive PoolOrder
  /-- 32-bit little-endian words, each consumed from bit 31 down: the default. -/
  | wordLeMsbFirst
  /-- the pool bytes in address order, MSB first: the alternative. -/
  | byteMsbFirst
  deriving DecidableEq, Repr

/-- LZH8_EXT_LEN_MODE: what a zero 24-bit LZH8 length does (00_scope.md rule R6). -/
inductive ExtLenMode
  /-- READ: the second length field is read (30_encoding.md rule R51). -/
  | read
  /-- ERROR: UnsupportedFormat (44_lzh8.md rule R109). -/
  | error
  deriving DecidableEq, Repr

/-- ASCII_TAG_RULE: how the optional ASCII tag is recognised. The spec names one rule only. -/
inductive AsciiTagRule
  /-- the printable-bytes rule of 46_dispatcher.md rule R127. -/
  | printableBytes
  deriving DecidableEq, Repr

/-- The configuration of 00_scope.md rule R6; `none` for a capacity means unbounded. -/
structure Config where
  /-- IN_CAPACITY: maximum input buffer size in bytes. -/
  inCapacity : Option Nat := none
  /-- OUT_CAPACITY: maximum output size in bytes; a larger declared length is rejected (rule R129). -/
  outCapacity : Option Nat := none
  /-- CURSOR_WIDTH: the hardware's width of byte cursors; the model's cursors are naturals (rules R6, R8). -/
  cursorWidth : Nat := 32
  /-- READBITS_MAX: largest n of one readBits. Held and read by no operation: the model's choice (assumption 27). -/
  readBitsMax : Nat := 32
  /-- TABLE_LEN_BITS: width of one code length in a table description. -/
  tableLenBits : Nat := 4
  /-- RUN_COUNT_BITS: width of a run's repeat-count field. -/
  runCountBits : Nat := 7
  /-- ARENA_CAPACITY: maximum nodes in one decode tree (41_huffman_table.md rule R86). -/
  arenaCapacity : Option Nat := none
  /-- HUF8_POOL_ORDER. -/
  poolOrder : PoolOrder := .wordLeMsbFirst
  /-- LZH8_EXT_LEN_MODE. -/
  extLenMode : ExtLenMode := .read
  /-- ASCII_TAG_RULE. -/
  asciiTagRule : AsciiTagRule := .printableBytes
  /-- LZH8_S1: size of LZH8 alphabet 1. -/
  lzh8S1 : Nat := 512
  /-- LZH8_S2: size of LZH8 alphabet 2. -/
  lzh8S2 : Nat := 32
  /-- RC_S1: size of ROMCHU alphabet 1. -/
  rcS1 : Nat := 285
  /-- RC_S2: size of ROMCHU alphabet 2. -/
  rcS2 : Nat := 30
  deriving DecidableEq, Repr

/-- The configuration with every parameter at the value rule R6 gives. -/
def Config.standard : Config := {}

/-- MAX_CODE_LEN, the longest code length a table can hold: derived from TABLE_LEN_BITS (rule R6). -/
def Config.maxCodeLen (c : Config) : Nat := 2 ^ c.tableLenBits - 1

/-- FREE VALUE (assumption 2): what the byte of IN at an address holds after a power-on reset when the host has not
loaded it. The first argument counts power-on resets. 10_state.md rule R32: "unspecified (host loads it)". -/
opaque Config.unloadedIn : Nat → Nat → Byte

/-- FREE VALUE (assumption 2): what the byte of OUT at an address holds after a power-on reset when no call has
written it. The first argument counts power-on resets. 10_state.md rule R32: "unspecified". -/
opaque Config.unwrittenOut : Nat → Nat → Byte

end Sys2Proof
end

