-- ==== Sys2Proof/Syntax.lean ====
section
/-! DEFINITION. The operations of the block: one constructor per row of spec/opcode_table.json, in the table's order.
A constructor carries the fields of the row's encoding (30_encoding.md) and, for a sub-operation, the operands the
operation's rule lists. -/

namespace Sys2Proof

/-- The two Huffman table register files of 10_state.md rule R27. -/
inductive TableId
  | t1
  | t2
  deriving DecidableEq, Repr

/-- The six compressed formats of 00_scope.md rule R3. -/
inductive Format
  | lz10
  | lz11
  | n64lz
  | huf8
  | lzh8
  | romchu
  deriving DecidableEq, Repr

/-- The five errors of 60_exceptions.md rule R133. -/
inductive ErrCode
  | unsupportedFormat
  | truncatedInput
  | invalidBackreference
  | huffmanTableCorrupt
  | lengthMismatch
  deriving DecidableEq, Repr

/-- One operation of the block. -/
inductive Instr
  /-- CMD_START, rule R125. -/
  | cmdStart
  /-- ILLEGAL_HINT7, rule R67: the reserved hint value. -/
  | illegalHint7
  /-- DISPATCH, rule R126. -/
  | dispatch
  /-- TagPresent, rule R127: the four candidate tag bytes IN[0..3]. -/
  | tagPresent (b0 b1 b2 b3 : Byte)
  /-- DISPATCH_LZ10, rule R126: LEN24. -/
  | dispatchLz10 (len : BitVec 24)
  /-- DISPATCH_LZ11, rule R126: LEN24. -/
  | dispatchLz11 (len : BitVec 24)
  /-- DISPATCH_HUF8, rule R126: LEN24. -/
  | dispatchHuf8 (len : BitVec 24)
  /-- DISPATCH_LZH8, rule R126: LEN24. -/
  | dispatchLzh8 (len : BitVec 24)
  /-- ILLEGAL_LE_TYPE, rule R67: TYPE and LEN24. -/
  | illegalLeType (type : Byte) (len : BitVec 24)
  /-- DISPATCH_N64LZ, rule R126: LEN30. -/
  | dispatchN64lz (len : BitVec 30)
  /-- DISPATCH_ROMCHU, rule R126: LEN30. -/
  | dispatchRomchu (len : BitVec 30)
  /-- ILLEGAL_NTYPE0, rule R67: LEN30. -/
  | illegalNtype0 (len : BitVec 30)
  /-- ILLEGAL_NTYPE3, rule R67: LEN30. -/
  | illegalNtype3 (len : BitVec 30)
  /-- CapacityCheck(L), rule R129. -/
  | capacityCheck (len : Nat)
  /-- Entry(f, L), rule R131. -/
  | entry (f : Format) (len : Nat)
  /-- BR_INIT(lo, hi, limit), rule R69: `none` is the omitted limit. -/
  | brInit (lo hi : Nat) (limit : Option Nat)
  /-- BR_READBITS: readBits(br, n), rules R70 and R72. -/
  | brReadbits (n : Nat)
  /-- BR_REFILL: NextBit(br), rule R71. -/
  | brRefill
  /-- BR_CHECKPAD(end), rule R73. -/
  | brCheckpad (endBit : Nat)
  /-- HT_LOAD(T, S), rule R75. -/
  | htLoad (t : TableId) (size : Nat)
  /-- HT_RUN_EQUAL(T, i), rule R76. -/
  | htRunEqual (t : TableId) (i : Nat)
  /-- HT_RUN_SET(T, i), rule R77. -/
  | htRunSet (t : TableId) (i : Nat)
  /-- HT_BUILD(T), rule R78. -/
  | htBuild (t : TableId)
  /-- HT_DECODE: decodeSymbol(T, br), rule R87. -/
  | htDecode (t : TableId)
  /-- LZ_FLAGS, rule R92: the flag byte. -/
  | lzFlags (flag : Byte)
  /-- LZ_LIT, rule R93: the literal byte. -/
  | lzLit (b : Byte)
  /-- LZ10_REF, rule R94: LM3 and DM1. -/
  | lz10Ref (lm3 : BitVec 4) (dm1 : BitVec 12)
  /-- LZ11_REF_SHORT, rule R95: w[15:12] and w[11:0]. -/
  | lz11RefShort (len1 : BitVec 4) (dm1 : BitVec 12)
  /-- LZ11_REF_MED, rule R97: w[27:12] and w[11:0]. -/
  | lz11RefMed (len273 : BitVec 16) (dm1 : BitVec 12)
  /-- LZ11_REF_LONG, rule R96: w[19:12] and w[11:0]. -/
  | lz11RefLong (len17 : BitVec 8) (dm1 : BitVec 12)
  /-- COPY: Copy(length, distance), rule R98. -/
  | copy (length distance : Nat)
  /-- LZ_NEXT, rule R99. -/
  | lzNext
  /-- H8_SETUP, rule R102. -/
  | h8Setup
  /-- H8_POOLBIT: PoolBit(), rule R103. -/
  | h8Poolbit
  /-- H8_BIT0, rule R104. -/
  | h8Bit0
  /-- H8_BIT1, rule R105. -/
  | h8Bit1
  /-- EmitLeaf(child), rule R106. -/
  | emitLeaf (child : Nat)
  /-- CheckChild, rules R107 and R108: the node byte's fields L0, L1 and OFF. -/
  | checkChild (l0 l1 : BitVec 1) (off : BitVec 6)
  /-- LZH8_SETUP, rule R109. -/
  | lzh8Setup
  /-- LZH8_LIT, rule R110: BYTE. -/
  | lzh8Lit (b : Byte)
  /-- LZH8_REF, rule R111: LEN3. -/
  | lzh8Ref (len3 : BitVec 8)
  /-- LZH8_DISP0, rule R112. -/
  | lzh8Disp0
  /-- LZH8_DISPN, rule R113: DISPLEN. -/
  | lzh8Dispn (displen : BitVec 5)
  /-- LZH8_NEXT, rule R114. -/
  | lzh8Next
  /-- RC_BLOCK, rule R116. -/
  | rcBlock
  /-- RC_BLK_RAW, rule R117: N in bytes. -/
  | rcBlkRaw (n : BitVec 31)
  /-- RC_BLK_COMP, rule R118: N in bits. -/
  | rcBlkComp (n : BitVec 31)
  /-- RC_TABLE(T, S, p), rule R119. -/
  | rcTable (t : TableId) (size p : Nat)
  /-- RC_LIT, rule R120: BYTE. -/
  | rcLit (b : Byte)
  /-- RC_REF, rule R121: the length class. -/
  | rcRef (cls : BitVec 8)
  /-- RC_LEN_CLASS(c), rule R122. -/
  | rcLenClass (c : Nat)
  /-- RC_DIST_CLASS(dc), rule R123. -/
  | rcDistClass (dc : BitVec 5)
  /-- RC_NEXT, rule R124. -/
  | rcNext
  /-- RESERVED_RC_SYM1, rule R67: a T1 symbol 0x11D..0x1FF. -/
  | reservedRcSym1 (sym : BitVec 9)
  /-- RESERVED_RC_SYM2, rule R67: a T2 symbol 30 or 31. -/
  | reservedRcSym2 (sym : BitVec 5)
  /-- RAISE: raise E, rule R136. -/
  | raise (e : ErrCode)
  /-- COMPLETE, rule R132. -/
  | complete
  deriving DecidableEq, Repr

end Sys2Proof
end

