-- ==== Sys2Proof/Machine/State.lean ====
section
/-! DEFINITION. The architectural state of 10_state.md as plain data, the reasons a step can stop, and the state after
power-on reset. -/

namespace Sys2Proof.Machine

/-- The engine's control state, the program-counter analogue (rule R21). -/
inductive Phase
  | idle
  | dispatch
  | lzFlag
  | lzToken
  | h8Setup
  | h8Walk
  | lzh8Setup
  | lzh8Body
  | rcBlock
  | rcBody
  | done
  deriving DecidableEq, Repr, Inhabited

/-- The host-visible registers of rule R14. -/
inductive HostReg
  | ctrl
  | tagHint
  | inLen
  | status
  | outLen
  deriving DecidableEq, Repr

/-- What the host does at one of its turns (rules R13, R143 to R146). -/
inductive HostAct
  /-- a write to a register. -/
  | writeReg (r : HostReg) (v : Word32)
  /-- a read of a register. -/
  | readReg (r : HostReg)
  /-- a write of one byte to IN. -/
  | loadIn (a : Nat) (b : Byte)
  /-- a read of one byte of OUT. -/
  | readOut (a : Nat)
  /-- power-on reset. -/
  | powerOnReset
  /-- nothing: the engine takes its turn. -/
  | pass
  /-- poll STATUS until DONE = 1 (rule R145, step 6); the engine runs meanwhile. -/
  | pollDone
  deriving DecidableEq, Repr

/-- The fields of STATUS (rule R18). Bits [31:9] are hardwired 0 and hold nothing. -/
structure Status where
  busy : Bool := false
  done : Bool := false
  err : BitVec 3 := 0
  outValid : Bool := false
  format : BitVec 3 := 0
  deriving DecidableEq, Repr, Inhabited

/-- The BitReader register set `br` (rule R23). -/
structure BitReader where
  lo : Nat := 0
  hi : Nat := 0
  limit : Nat := 0
  idx : Nat := 0
  nbits : Nat := 0
  cur : Byte := 0
  deriving DecidableEq, Repr, Inhabited

/-- One node of a decode tree (rule R27); `none` is the spec's NONE. -/
structure Node where
  c0 : Option Nat := none
  c1 : Option Nat := none
  sym : Option Nat := none
  deriving DecidableEq, Repr, Inhabited

/-- A Huffman table register file (rule R27). `len` holds `T.len[0 .. S-1]`, and `node` the arena, so that `T.nn` is
its length. -/
structure Table where
  size : Nat := 0
  len : List Nat := []
  node : List Node := []
  deriving DecidableEq, Repr, Inhabited

/-- The Huf8 walker registers (rule R28). -/
structure Huf8Regs where
  sc : Nat := 0
  tsize : Nat := 0
  cur : Nat := 0
  pidx : Nat := 0
  pw : Word32 := 0
  pbits : Nat := 0
  deriving DecidableEq, Repr, Inhabited

/-- The Romchu block registers (rule R29). -/
structure RomchuRegs where
  n : Nat := 0
  payload : Nat := 0
  next : Nat := 0
  deriving DecidableEq, Repr, Inhabited

/-- The engine registers of rules R22 to R29 together: what an error leaves unspecified (rule R136). -/
structure EngineRegs where
  ip : Nat := 0
  br : Option BitReader := none
  declared : Nat := 0
  oc : Nat := 0
  flag : Byte := 0
  fcnt : Nat := 0
  fmt : BitVec 3 := 0
  t1 : Table := {}
  t2 : Table := {}
  h8 : Huf8Regs := {}
  rc : RomchuRegs := {}
  deriving DecidableEq, Repr, Inhabited

end Sys2Proof.Machine

namespace Sys2Proof

/-- FREE VALUE (assumption 1): what the engine registers hold after the k-th error. 60_exceptions.md rule R136: every
engine register "holds an unspecified value after an error". -/
opaque Config.engineAfterError : Nat → Machine.EngineRegs

end Sys2Proof

namespace Sys2Proof.Machine

/-- A byte memory as address and byte pairs. Canonical form: the addresses strictly rise. An address that is not listed
holds no value of its own (`none`), so no listed byte equals what an unlisted address reads as. -/
abbrev Memory := List Host.Cell

/-- The whole state: the spec's registers and memories, then the model's own fields. -/
structure State where
  /-- TAG_HINT.HINT (rule R16); TAG_HINT[31:3] is hardwired 0. -/
  hint : BitVec 3
  /-- IN_LEN (rule R17). -/
  inLen : Word32
  /-- STATUS (rule R18). -/
  status : Status
  /-- OUT_LEN (rule R19). -/
  outLen : Word32
  /-- IN (rules R20, R33). -/
  inMem : Memory
  /-- OUT (rules R20, R34). -/
  outMem : Memory
  /-- phase (rule R21). -/
  phase : Phase
  /-- ip (rule R22). -/
  ip : Nat
  /-- br (rule R23); `none` is the spec's own "no reader exists" (rule R32). -/
  br : Option BitReader
  /-- L (rule R24). -/
  declared : Nat
  /-- oc (rule R24). -/
  oc : Nat
  /-- flag (rule R25). -/
  flag : Byte
  /-- fcnt (rule R25). -/
  fcnt : Nat
  /-- fmt (rule R26). -/
  fmt : BitVec 3
  /-- T1 (rule R27). -/
  t1 : Table
  /-- T2 (rule R27). -/
  t2 : Table
  /-- h8 (rule R28). -/
  h8 : Huf8Regs
  /-- rc (rule R29). -/
  rc : RomchuRegs
  /-- THE MODEL'S OWN: the host's turns to come, oldest first (assumption 4). -/
  host : List HostAct
  /-- THE MODEL'S OWN: the word the host last read (assumption 4). -/
  hostData : Word32
  /-- THE MODEL'S OWN: what a sub-operation run by itself returned to its caller (assumption 5). -/
  ret : Nat
  /-- THE MODEL'S OWN: how many errors have been raised, the index of the next free value (assumption 1). -/
  errors : Nat
  /-- THE MODEL'S OWN: how many power-on resets have happened, the index of the memories' free bytes (assumption 2). -/
  resets : Nat
  /-- The configuration of 00_scope.md rule R6, fixed for the machine: no step writes it (assumption 6). -/
  cfg : Config
  deriving DecidableEq, Repr

/-- Why the machine stops. -/
inductive Fault
  /-- An access to an address of IN at or above a finite IN_CAPACITY, which does not exist (rule R33). Raised by
  reads of IN and by the host's loads. Safe: hardware has no such byte. -/
  | noSuchInAddress
  /-- A host read of OUT at or above a finite OUT_CAPACITY, which does not exist (rule R34). Safe. -/
  | noSuchOutAddress
  /-- A Romchu T1 symbol 0x11D..0x1FF, or length class above 28: "cannot occur" (rules R63, R67). Raised by
  RESERVED_RC_SYM1 and RC_LEN_CLASS. Safe. -/
  | reservedRomchuSymbol1
  /-- A Romchu T2 symbol 30 or above: "cannot occur" (rules R63, R67). Raised by RESERVED_RC_SYM2, RC_DIST_CLASS and
  RC_REF. Safe. -/
  | reservedRomchuSymbol2
  /-- A decoded symbol that its context is too narrow for (rule R47); only an alphabet larger than the source's can
  hold one. Raised by the fetch. Safe. -/
  | symbolTooWide
  deriving DecidableEq, Repr

/-- Why the model refuses. -/
inductive Refusal
  /-- An operation with no meaning in the model. Raised by `exec` only. Safe. -/
  | notModelled (mnemonic : String)
  /-- A host write to IN while BUSY = 1: a host error whose effect is outside the spec (rule R144, I25). Raised by the
  host's turn. Safe. -/
  | inWriteWhileBusy
  deriving DecidableEq, Repr

/-- The machine right after power-on reset (rules R32, R143). The registers the spec leaves unset hold 0
(assumption 7); the bytes of IN and OUT are free (assumption 2). -/
def State.reset : State where
  hint := 0
  inLen := 0
  status := {}
  outLen := 0
  inMem := []
  outMem := []
  phase := .idle
  ip := 0
  br := none
  declared := 0
  oc := 0
  flag := 0
  fcnt := 0
  fmt := 0
  t1 := {}
  t2 := {}
  h8 := {}
  rc := {}
  host := []
  hostData := 0
  ret := 0
  errors := 0
  resets := 0
  cfg := Config.standard

end Sys2Proof.Machine
end

