-- ==== Sys2Proof/Machine/Flags.lean ====
section
/-! DEFINITION. The status fields and the condition-code-like state of the block: STATUS as a word and at each of its
transitions (rules R18, R125, R132, R136), the numeric codes, the LZ flag byte (rule R25). -/

namespace Sys2Proof

/-- The format code of 00_scope.md rule R3, as TAG_HINT, STATUS.FORMAT and `fmt` use it. -/
def Format.code : Format → BitVec 3
  | .lz10 => 1
  | .lz11 => 2
  | .n64lz => 3
  | .huf8 => 4
  | .lzh8 => 5
  | .romchu => 6

/-- The value of STATUS.ERR for an error (rule R133). -/
def ErrCode.code : ErrCode → BitVec 3
  | .unsupportedFormat => 1
  | .truncatedInput => 2
  | .invalidBackreference => 3
  | .huffmanTableCorrupt => 4
  | .lengthMismatch => 5

namespace Machine

/-- The encoding of `phase`, in rule R21's table order from 0. -/
def Phase.code : Phase → BitVec 4
  | .idle => 0
  | .dispatch => 1
  | .lzFlag => 2
  | .lzToken => 3
  | .h8Setup => 4
  | .h8Walk => 5
  | .lzh8Setup => 6
  | .lzh8Body => 7
  | .rcBlock => 8
  | .rcBody => 9
  | .done => 10

/-- A host-visible register's index (rule R14). -/
def HostReg.index : HostReg → Nat
  | .ctrl => 0
  | .tagHint => 1
  | .inLen => 2
  | .status => 3
  | .outLen => 4

/-- STATUS as the host reads it: BUSY [0], DONE [1], ERR [4:2], OUT_VALID [5], FORMAT [8:6], [31:9] zero (R14, R18). -/
def Status.word (st : Status) : Word32 :=
  BitVec.ofNat 32
    (st.busy.toNat + st.done.toNat * 2 + st.err.toNat * 4 + st.outValid.toNat * 32 + st.format.toNat * 64)

/-- STATUS at START (rule R125). -/
def Status.started : Status :=
  { busy := true, done := false, err := 0, outValid := false, format := 0 }

/-- STATUS when a call completes successfully (rule R132); FORMAT is kept. -/
def Status.succeeded (st : Status) : Status :=
  { st with busy := false, done := true, err := 0, outValid := true }

/-- STATUS when an error is raised (rule R136); FORMAT is kept. -/
def Status.failed (st : Status) (e : ErrCode) : Status :=
  { st with busy := false, done := true, err := e.code, outValid := false }

/-- The kind of the next LZ token, `flag[fcnt-1]`: bit 7 is used first (rule R25). -/
def State.flagBit (s : State) : Bool := s.flag.getLsbD (s.fcnt - 1)

end Machine

end Sys2Proof
end

