-- ==== Sys2Proof/Machine/Operands.lean ====
section
/-! DEFINITION. How each length, distance and table index is assembled from an operation's fields (rule R66): every
value is unsigned, none is scaled. -/

namespace Sys2Proof.Machine

/-- `ceil8(n) = (n + 7) div 8` (rule R7). -/
def ceil8 (n : Nat) : Nat := (n + 7) / 8

/-- `align4(a) = ((a + 3) div 4) * 4` (rule R7). -/
def align4 (a : Nat) : Nat := (a + 3) / 4 * 4

/-- LZ10 and N64LZ length: `t[15:12] + 3`. -/
def lz10Length (lm3 : BitVec 4) : Nat := lm3.toNat + 3

/-- LZ11 short length: `info[15:12] + 1`. -/
def lz11ShortLength (len1 : BitVec 4) : Nat := len1.toNat + 1

/-- LZ11 long length: `w[19:12] + 17`. -/
def lz11LongLength (len17 : BitVec 8) : Nat := len17.toNat + 17

/-- LZ11 medium length: `w[27:12] + 273`. -/
def lz11MedLength (len273 : BitVec 16) : Nat := len273.toNat + 273

/-- The distance of every LZ token: the field `w[11:0]`, plus 1. -/
def lzDistance (dm1 : BitVec 12) : Nat := dm1.toNat + 1

/-- LZH8 length: `s - 0x100 + 3`, where LEN3 is `s[7:0]`. -/
def lzh8Length (len3 : BitVec 8) : Nat := len3.toNat + 3

/-- The displacement of LZH8_DISPN: a leading 1 before the `displen - 1` raw bits (rule R113). -/
def lzh8Displacement (displen raw : Nat) : Nat := 2 ^ (displen - 1) ||| raw

/-- A Huf8 child's table index: `((i + 1) div 2) * 2 + 1 + OFF * 2 + b` (rule R57). -/
def childIndex (i : Nat) (off : BitVec 6) (b : Nat) : Nat := (i + 1) / 2 * 2 + 1 + off.toNat * 2 + b

/-- The fields L0, L1 and OFF of a Huf8 node byte (rule R57). -/
def nodeL0 (node : Byte) : Bool := node.getLsbD 7
/-- See `nodeL0`. -/
def nodeL1 (node : Byte) : Bool := node.getLsbD 6
/-- See `nodeL0`. -/
def nodeOff (node : Byte) : BitVec 6 := node.setWidth 6

/-- LB and LE, the base and the count of extra bits of each Romchu length class (rule R64). -/
def lengthClasses : List (Nat × Nat) :=
  [(3, 0), (4, 0), (5, 0), (6, 0), (7, 0), (8, 0), (9, 0), (10, 0),
   (11, 1), (13, 1), (15, 1), (17, 1), (19, 2), (23, 2), (27, 2), (31, 2),
   (35, 3), (43, 3), (51, 3), (59, 3), (67, 4), (83, 4), (99, 4), (115, 4),
   (131, 5), (163, 5), (195, 5), (227, 5), (258, 0)]

/-- DB and DE, the base and the count of extra bits of each Romchu distance class (rule R65). -/
def distanceClasses : List (Nat × Nat) :=
  [(1, 0), (2, 0), (3, 0), (4, 0), (5, 1), (7, 1), (9, 2), (13, 2),
   (17, 3), (25, 3), (33, 4), (49, 4), (65, 5), (97, 5), (129, 6), (193, 6),
   (257, 7), (385, 7), (513, 8), (769, 8), (1025, 9), (1537, 9), (2049, 10), (3073, 10),
   (4097, 11), (6145, 11), (8193, 12), (12289, 12), (16385, 13), (24577, 13)]

end Sys2Proof.Machine
end

