-- ==== Sys2Proof/Machine/Ops.lean ====
section
/-! DEFINITION. The named operations over memory and registers that every rule uses (00_scope.md rule R9), taking an
error, and completing a call. -/

namespace Sys2Proof.Machine

/-! ### Memory -/

/-- What an address a memory does not list reads as: no value of its own. -/
def Memory.unlisted : Option Byte := none

/-- The value a memory lists at an address. -/
def Memory.read (a : Nat) : Memory → Option Byte
  | [] => Memory.unlisted
  | (k, b) :: m => if k = a then some b else if a < k then Memory.unlisted else Memory.read a m

/-- A memory with the byte at one address written. -/
def Memory.write (a : Nat) (b : Byte) : Memory → Memory
  | [] => [(a, b)]
  | (k, c) :: m =>
    if a < k then (a, b) :: (k, c) :: m
    else if k = a then (a, b) :: m
    else (k, c) :: Memory.write a b m

/-- The canonical form: the addresses strictly rise. -/
abbrev Memory.wf (m : Memory) : Prop := m.Pairwise fun p q => p.1 < q.1

/-- The byte IN holds at an address: the listed one, else a free value (assumption 2). -/
def State.inByte (s : State) (a : Nat) : Byte := (Memory.read a s.inMem).getD (Config.unloadedIn s.resets a)

/-- `OutRead(a)`: the byte OUT holds at an address (rule R9): the listed one, else a free value (assumption 2). -/
def State.outByte (s : State) (a : Nat) : Byte := (Memory.read a s.outMem).getD (Config.unwrittenOut s.resets a)

/-- The bytes `IN[a] .. IN[a+n-1]` in address order. -/
def State.inBytes (s : State) : Nat → Nat → List Byte
  | _, 0 => []
  | a, n + 1 => s.inByte a :: s.inBytes (a + 1) n

/-- The value of bytes read little-endian: the first is the least significant (rule R9). -/
def leValue : List Byte → Nat
  | [] => 0
  | b :: bs => b.toNat + 256 * leValue bs

/-- The value of bytes read big-endian: the first is the most significant (rule R9). -/
def beValue (bs : List Byte) : Nat := bs.foldl (fun v b => v * 256 + b.toNat) 0

/-! ### Register updates -/

/-- The engine registers of rules R22 to R29 as one value. -/
def State.engine (s : State) : EngineRegs where
  ip := s.ip
  br := s.br
  declared := s.declared
  oc := s.oc
  flag := s.flag
  fcnt := s.fcnt
  fmt := s.fmt
  t1 := s.t1
  t2 := s.t2
  h8 := s.h8
  rc := s.rc

/-- The engine registers of rules R22 to R29 written together. -/
def State.setEngine (s : State) (r : EngineRegs) : State :=
  { s with
    ip := r.ip, br := r.br, declared := r.declared, oc := r.oc, flag := r.flag, fcnt := r.fcnt, fmt := r.fmt,
    t1 := r.t1, t2 := r.t2, h8 := r.h8, rc := r.rc }

/-- `phase <- p`. -/
def State.setPhase (s : State) (p : Phase) : State := { s with phase := p }

/-- `ip <- a`. -/
def State.setIp (s : State) (a : Nat) : State := { s with ip := a }

/-- `br <- r`. -/
def State.setReader (s : State) (r : BitReader) : State := { s with br := some r }

/-- `fcnt <- n`. -/
def State.setFcnt (s : State) (n : Nat) : State := { s with fcnt := n }

/-- `flag <- b; fcnt <- 8` (rule R92). -/
def State.setFlags (s : State) (b : Byte) : State := { s with flag := b, fcnt := 8 }

/-- The table register file a name stands for. -/
def State.table (s : State) : TableId → Table
  | .t1 => s.t1
  | .t2 => s.t2

/-- A table register file written. -/
def State.setTable (s : State) (t : TableId) (x : Table) : State :=
  match t with
  | .t1 => { s with t1 := x }
  | .t2 => { s with t2 := x }

/-- `h8.* <- r`. -/
def State.setH8 (s : State) (r : Huf8Regs) : State := { s with h8 := r }

/-- `rc.* <- r`. -/
def State.setRc (s : State) (r : RomchuRegs) : State := { s with rc := r }

/-- `L <- n; OUT_LEN <- n`: the host sees L as OUT_LEN (rule R24). -/
def State.setDeclared (s : State) (n : Nat) : State := { s with declared := n, outLen := BitVec.ofNat 32 n }

/-- `fmt <- f; STATUS.FORMAT <- f` (rule R128). -/
def State.setFormat (s : State) (f : Format) : State :=
  { s with fmt := f.code, status := { s.status with format := f.code } }

/-- `MemWrite(oc, 1, b); oc <- oc + 1` (rule R9). -/
def State.emit (s : State) (b : Byte) : State :=
  { s with outMem := Memory.write s.oc b s.outMem, oc := s.oc + 1 }

/-- What a sub-operation run by itself hands back to its caller (assumption 5). -/
def State.setRet (s : State) (n : Nat) : State := { s with ret := n }

/-! ### Taking an error, and completing a call -/

/-- `raise E`, the trap entry (rule R136). Nothing is saved and there is no return (rule R137): the only way on is a new
START. The engine registers become unspecified (assumption 1). OUT and OUT_LEN stay as they are (assumption 8). -/
def State.raise (s : State) (e : ErrCode) : State :=
  { s.setEngine (Config.engineAfterError s.errors) with
    status := s.status.failed e, phase := .done, errors := s.errors + 1 }

/-- A call completes successfully: `phase <- DONE` without an error (rule R132). -/
def State.complete (s : State) : State := { s with status := s.status.succeeded, phase := .done }

/-- START re-initialises every engine register (rule R125). TAG_HINT, IN_LEN, IN and OUT are kept. -/
def State.start (s : State) : State :=
  { s.setEngine {} with status := Status.started, outLen := 0, phase := .dispatch }

/-! ### Operations: a rule's pseudocode, run on the state -/

/-- Why an operation does not go on: it raised an error of the block, or the model stops. -/
inductive Stop
  /-- `raise E`: the block ends the call (rule R136). -/
  | error (e : ErrCode)
  /-- the machine stops with a fault. -/
  | fault (f : Fault)
  deriving DecidableEq, Repr

/-- A rule's pseudocode: it reads and writes the state, and answers a value or stops. -/
abbrev Op := EStateM Stop State

/-- `raise E` inside pseudocode: no statement after it runs (rule R9). -/
def raised {α : Type} (e : ErrCode) : Op α := fun s => .error (.error e) s

/-- The machine stops. -/
def faulted {α : Type} (f : Fault) : Op α := fun s => .error (.fault f) s

/-- A pure update of the state. -/
def update (f : State → State) : Op Unit := fun s => .ok () (f s)

/-- The whole outcome of an operation that returns nothing: an error is taken within the step (rule R136). -/
def runOp (op : Op Unit) (s : State) : Host.Outcome State Fault Refusal :=
  match op s with
  | .ok _ t => .next t
  | .error (.error e) t => .next (t.raise e)
  | .error (.fault f) _ => .fault f

/-- The whole outcome of a sub-operation run by itself; what it returns goes to `ret` (assumption 5). -/
def runValue (op : Op Nat) (s : State) : Host.Outcome State Fault Refusal :=
  match op s with
  | .ok v t => .next (t.setRet v)
  | .error (.error e) t => .next (t.raise e)
  | .error (.fault f) _ => .fault f

/-- `MemRead(a, n)` (rules R9, R33): all n bytes, or TruncatedInput and none. -/
def memRead (a n : Nat) : Op (List Byte) := fun s =>
  if s.inLen.toNat < a + n then .error (.error .truncatedInput) s
  else if (s.cfg.inCapacity.any fun c => decide (c < a + n)) then .error (.fault .noSuchInAddress) s
  else .ok (s.inBytes a n) s

/-- `LE16(a)` (rule R9). -/
def le16 (a : Nat) : Op Nat := do return leValue (← memRead a 2)

/-- `LE32(a)` (rule R9). -/
def le32 (a : Nat) : Op Nat := do return leValue (← memRead a 4)

/-- `BE16(a)` (rule R9). -/
def be16 (a : Nat) : Op Nat := do return beValue (← memRead a 2)

/-- `BE32(a)` (rule R9). -/
def be32 (a : Nat) : Op Nat := do return beValue (← memRead a 4)

/-- `MemRead(ip, n); ip <- ip + n`: the input cursor takes n bytes. -/
def takeBytes (n : Nat) : Op (List Byte) := do
  let s ← get
  let bs ← memRead s.ip n
  update fun s => s.setIp (s.ip + n)
  return bs

/-- `MemWrite(oc, 1, b); oc <- oc + 1`. A write at an address `>= L` is refused before it happens (rule R34). -/
def emitByte (b : Byte) : Op Unit := fun s =>
  if s.oc < s.declared then .ok () (s.emit b) else .error (.error .lengthMismatch) s

/-- Bytes written to OUT at the cursor, in order. -/
def State.emitAll : List Byte → State → State
  | [], s => s
  | b :: bs, s => State.emitAll bs (s.emit b)

/-- `repeat length times: MemWrite(oc, 1, OutRead(oc - distance)); oc <- oc + 1` (rule R98): one byte at a time, each
read after the byte before it has been written (rule R147). -/
def State.copyBytes : Nat → Nat → State → State
  | 0, _, s => s
  | n + 1, distance, s => State.copyBytes n distance (s.emit (s.outByte (s.oc - distance)))

/-- `Copy(length, distance)` (rule R98): the distance is checked first, and nothing is copied if a check fails. -/
def copyOp (length distance : Nat) : Op Unit := fun s =>
  if distance < 1 ∨ s.oc < distance then .error (.error .invalidBackreference) s
  else if s.declared < s.oc + length then .error (.error .lengthMismatch) s
  else .ok () (s.copyBytes length distance)

end Sys2Proof.Machine
end

