-- ==== Sys2Proof/Machine/Huf8.lean ====
section
/-! DEFINITION. The Huf8Decoder of 43_huf8.md: a walk of the tree stored in IN, one pool bit a step. -/

namespace Sys2Proof.Machine

/-- `H8_SETUP` (rule R102). -/
def h8SetupOp : Op Unit := do
  let bs ← memRead 4 1
  let sc := (bs.headD 0).toNat + 1
  let tsize := 2 * sc - 1
  update fun s => s.setH8 { s.h8 with sc := sc, tsize := tsize }
  let s ← get
  if s.declared = 0 then update State.complete
  else if s.inLen.toNat < 5 + tsize then raised .truncatedInput
  else
    update fun s =>
      (s.setH8 { s.h8 with pidx := align4 (4 + 2 * sc), pbits := 0, pw := 0, cur := 0 }).setPhase .h8Walk

/-- The pool word of four bytes, in the order HUF8_POOL_ORDER gives (20_memory.md rule R38; assumption 9). -/
def poolWord (order : PoolOrder) (bs : List Byte) : Word32 :=
  match order with
  | .wordLeMsbFirst => BitVec.ofNat 32 (leValue bs)
  | .byteMsbFirst => BitVec.ofNat 32 (beValue bs)

/-- `PoolBit()` (rule R103): bit 31 of a word first, bit 0 last; a partial final word supplies no bits. -/
def poolBit : Op Bool := do
  let s ← get
  if s.h8.pbits = 0 then
    let bs ← memRead s.h8.pidx 4
    update fun s => s.setH8 { s.h8 with pw := poolWord s.cfg.poolOrder bs, pidx := s.h8.pidx + 4, pbits := 32 }
  else pure ()
  let s ← get
  update fun s => s.setH8 { s.h8 with pbits := s.h8.pbits - 1 }
  return s.h8.pw.getLsbD (s.h8.pbits - 1)

/-- `CheckChild(child)` (rules R107, R108): the range first, then the loop check that cannot fire. -/
def checkChildOp (child : Nat) : Op Unit := fun s =>
  if s.h8.tsize ≤ child then .error (.error .huffmanTableCorrupt) s
  else if child ≤ s.h8.cur then .error (.error .invalidBackreference) s
  else .ok () s

/-- `EmitLeaf(child)` (rule R106). -/
def emitLeafOp (child : Nat) : Op Unit := do
  let bs ← memRead (5 + child) 1
  emitByte (bs.headD 0)
  update fun s =>
    let s := s.setH8 { s.h8 with cur := 0 }
    if s.oc = s.declared then s.complete else s.setPhase .h8Walk

/-- One edge down the tree (rules R104, R105): `b` is the edge's bit and `leaf` reads its L0 or L1 flag. -/
def h8EdgeOp (b : Nat) (leaf : Byte → Bool) : Op Unit := do
  let _ ← poolBit
  let s ← get
  let bs ← memRead (5 + s.h8.cur) 1
  let node := bs.headD 0
  let child := childIndex s.h8.cur (nodeOff node) b
  checkChildOp child
  if leaf node then emitLeafOp child
  else update fun s => s.setH8 { s.h8 with cur := child }

/-- H8_SETUP, rule R102. -/
def execH8Setup (s : State) : Host.Outcome State Fault Refusal :=
  runOp h8SetupOp s

/-- H8_POOLBIT, rule R103. -/
def execH8Poolbit (s : State) : Host.Outcome State Fault Refusal :=
  runValue (do return (← poolBit).toNat) s

/-- H8_BIT0, rule R104. -/
def execH8Bit0 (s : State) : Host.Outcome State Fault Refusal :=
  runOp (h8EdgeOp 0 nodeL0) s

/-- H8_BIT1, rule R105. -/
def execH8Bit1 (s : State) : Host.Outcome State Fault Refusal :=
  runOp (h8EdgeOp 1 nodeL1) s

/-- EmitLeaf, rule R106. -/
def execEmitLeaf (child : Nat) (s : State) : Host.Outcome State Fault Refusal :=
  runOp (emitLeafOp child) s

/-- The pool bit PoolBit delivered last, which chose the edge: `h8.pw[h8.pbits]` (rule R103). -/
def State.lastPoolBit (s : State) : Nat := (s.h8.pw.getLsbD s.h8.pbits).toNat

/-- CheckChild, rules R107 and R108, for the node byte's fields and the edge the last pool bit chose (assumption 5). -/
def execCheckChild (_l0 _l1 : BitVec 1) (off : BitVec 6) (s : State) : Host.Outcome State Fault Refusal :=
  runOp (checkChildOp (childIndex s.h8.cur off s.lastPoolBit)) s

end Sys2Proof.Machine
end

