-- ==== Sys2Proof/Machine/Dispatcher.lean ====
section
/-! DEFINITION. The FormatDispatcher and the decode call of 46_dispatcher.md, and the operations of 60_exceptions.md. -/

namespace Sys2Proof.Machine

/-- `0x20 <= b <= 0x7E` (rule R127). -/
def printable (b : Byte) : Bool := 0x20 ≤ b.toNat && b.toNat ≤ 0x7E

/-- The HINT and IN_LEN conditions of rule R127. -/
def State.tagAdmitted (s : State) : Bool := s.hint.toNat ≤ 2 && 5 ≤ s.inLen.toNat

/-- The byte conditions of rule R127 on IN[0..3] and IN[4], under ASCII_TAG_RULE. -/
def tagBytes (rule : AsciiTagRule) (b0 b1 b2 b3 b4 : Byte) : Bool :=
  match rule with
  | .printableBytes =>
    printable b0 && printable b1 && printable b2 && printable b3 && (b4 = 0x10#8 || b4 = 0x11#8)

/-- `TagPresent()` (rule R127). It reads only addresses below IN_LEN. -/
def tagPresentOp : Op Bool := do
  let s ← get
  if s.tagAdmitted then
    let bs ← memRead 0 5
    return tagBytes s.cfg.asciiTagRule (bs.getD 0 0) (bs.getD 1 0) (bs.getD 2 0) (bs.getD 3 0) (bs.getD 4 0)
  else return false

/-- The address of the LE header word: 4 after an ASCII tag, else 0 (rule R126). -/
def headerAddress : Op Nat := do return if ← tagPresentOp then 4 else 0

/-- `CapacityCheck(L)` (rule R129). -/
def capacityCheckOp (len : Nat) : Op Unit := fun s =>
  if s.cfg.outCapacity.any fun c => decide (c < len) then .error (.error .lengthMismatch) s else .ok () s

/-- `Entry(f, L)`, each format's first phase (rules R90, R91, R115, R131). -/
def State.enter (s : State) (f : Format) (len : Nat) : State :=
  match f with
  | .lz10 | .lz11 | .n64lz =>
    let s := { s with oc := 0, fcnt := 0 }
    if len = 0 then s.complete else s.setPhase .lzFlag
  | .huf8 => s.setPhase .h8Setup
  | .lzh8 => s.setPhase .lzh8Setup
  | .romchu => if len = 0 then s.complete else s.setPhase .rcBlock

/-- The end of DISPATCH once the format `f`, the length and the address after the header are known (rules R126, R128). -/
def dispatchCommit (f : Format) (len next : Nat) : Op Unit := do
  update fun s => ((s.setDeclared len).setIp next).setFormat f
  capacityCheckOp len
  update fun s => s.enter f len

/-- An LE header that names format `f` (rules R126, R130). -/
def dispatchLeOp (f : Format) (len : Nat) : Op Unit := do
  let h ← headerAddress
  let _ ← memRead h 4
  let s ← get
  if s.hint ≠ 0 ∧ s.hint ≠ f.code then raised .unsupportedFormat
  else dispatchCommit f len (h + 4)

/-- An N64 header that names format `f` (rules R126, R130). -/
def dispatchBeOp (f : Format) (len : Nat) : Op Unit := do
  let _ ← memRead 0 4
  let s ← get
  if s.hint ≠ f.code then raised .unsupportedFormat
  else dispatchCommit f len 4

/-- CMD_START, rule R125: ignored while BUSY = 1. -/
def execCmdStart (s : State) : Host.Outcome State Fault Refusal :=
  if s.status.busy then .next s else .next s.start

/-- ILLEGAL_HINT7, rules R67 and R126. -/
def execIllegalHint7 (s : State) : Host.Outcome State Fault Refusal :=
  runOp (raised .unsupportedFormat) s

/-- TagPresent, rule R127, for the bytes IN[0..3]. -/
def execTagPresent (b0 b1 b2 b3 : Byte) (s : State) : Host.Outcome State Fault Refusal :=
  runValue (do
    let s ← get
    if s.tagAdmitted then
      let bs ← memRead 4 1
      return (tagBytes s.cfg.asciiTagRule b0 b1 b2 b3 (bs.headD 0)).toNat
    else return 0) s

/-- DISPATCH_LZ10, rule R126. -/
def execDispatchLz10 (len : BitVec 24) (s : State) : Host.Outcome State Fault Refusal :=
  runOp (dispatchLeOp .lz10 len.toNat) s

/-- DISPATCH_LZ11, rule R126. -/
def execDispatchLz11 (len : BitVec 24) (s : State) : Host.Outcome State Fault Refusal :=
  runOp (dispatchLeOp .lz11 len.toNat) s

/-- DISPATCH_HUF8, rule R126. -/
def execDispatchHuf8 (len : BitVec 24) (s : State) : Host.Outcome State Fault Refusal :=
  runOp (dispatchLeOp .huf8 len.toNat) s

/-- DISPATCH_LZH8, rule R126. -/
def execDispatchLzh8 (len : BitVec 24) (s : State) : Host.Outcome State Fault Refusal :=
  runOp (dispatchLeOp .lzh8 len.toNat) s

/-- ILLEGAL_LE_TYPE, rules R67 and R126: the header is read before its type is refused. -/
def execIllegalLeType (_type : Byte) (_len : BitVec 24) (s : State) : Host.Outcome State Fault Refusal :=
  runOp (do
    let h ← headerAddress
    let _ ← memRead h 4
    raised .unsupportedFormat) s

/-- DISPATCH_N64LZ, rule R126. -/
def execDispatchN64lz (len : BitVec 30) (s : State) : Host.Outcome State Fault Refusal :=
  runOp (dispatchBeOp .n64lz len.toNat) s

/-- DISPATCH_ROMCHU, rule R126. -/
def execDispatchRomchu (len : BitVec 30) (s : State) : Host.Outcome State Fault Refusal :=
  runOp (dispatchBeOp .romchu len.toNat) s

/-- An N64 header whose NTYPE names no format: it is read, then refused (rules R67, R126). -/
def illegalNtypeOp : Op Unit := do
  let _ ← memRead 0 4
  raised .unsupportedFormat

/-- ILLEGAL_NTYPE0, rules R67 and R126. -/
def execIllegalNtype0 (_len : BitVec 30) (s : State) : Host.Outcome State Fault Refusal :=
  runOp illegalNtypeOp s

/-- ILLEGAL_NTYPE3, rules R67 and R126. -/
def execIllegalNtype3 (_len : BitVec 30) (s : State) : Host.Outcome State Fault Refusal :=
  runOp illegalNtypeOp s

/-- DISPATCH (rule R126): the checks in the order of rule R135. -/
def dispatchOp : Op Unit := do
  let s ← get
  if s.hint = 7 then raised .unsupportedFormat
  else if s.hint = 3 ∨ s.hint = 6 then
    let w ← be32 0
    if w % 4 = 1 then dispatchBeOp .n64lz (w / 4)
    else if w % 4 = 2 then dispatchBeOp .romchu (w / 4)
    else raised .unsupportedFormat
  else
    let h ← headerAddress
    let w ← le32 h
    if w % 256 = 0x10 then dispatchLeOp .lz10 (w / 256)
    else if w % 256 = 0x11 then dispatchLeOp .lz11 (w / 256)
    else if w % 256 = 0x28 then dispatchLeOp .huf8 (w / 256)
    else if w % 256 = 0x40 then dispatchLeOp .lzh8 (w / 256)
    else raised .unsupportedFormat

/-- DISPATCH, rule R126. -/
def execDispatch (s : State) : Host.Outcome State Fault Refusal :=
  runOp dispatchOp s

/-- CapacityCheck, rule R129. -/
def execCapacityCheck (len : Nat) (s : State) : Host.Outcome State Fault Refusal :=
  runOp (capacityCheckOp len) s

/-- Entry, rule R131. -/
def execEntry (f : Format) (len : Nat) (s : State) : Host.Outcome State Fault Refusal :=
  runOp (update fun s => s.enter f len) s

/-- RAISE, rule R136. -/
def execRaise (e : ErrCode) (s : State) : Host.Outcome State Fault Refusal :=
  runOp (raised e) s

/-- COMPLETE, rule R132. -/
def execComplete (s : State) : Host.Outcome State Fault Refusal :=
  runOp (update State.complete) s

end Sys2Proof.Machine
end

