-- ==== Sys2Proof/Machine/BitReader.lean ====
section
/-! DEFINITION. The BitReader of 40_bit_reader.md: a cursor over bytes of IN that delivers bits most significant
first. -/

namespace Sys2Proof.Machine

/-- `br.pos = (br.idx - br.lo) * 8 - br.nbits`, the number of bits delivered so far (rule R23). -/
def BitReader.pos (r : BitReader) : Nat := (r.idx - r.lo) * 8 - r.nbits

/-- The reader `BR_INIT(lo, hi, limit)` creates (rule R69); an omitted limit is `(hi - lo) * 8`. -/
def BitReader.init (lo hi : Nat) (limit : Option Nat) : BitReader where
  lo := lo
  hi := hi
  limit := limit.getD ((hi - lo) * 8)
  idx := lo
  nbits := 0
  cur := 0

/-- The active reader. Reading it while no reader exists raises an error of the block (rule R32, I14): no bit can be
delivered, so the error is TruncatedInput (assumption 10). -/
def reader : Op BitReader := fun s =>
  match s.br with
  | some r => .ok r s
  | none => .error (.error .truncatedInput) s

/-- `BR_INIT(lo, hi, limit)` (rule R69): the previous reader is discarded. -/
def brInitOp (lo hi : Nat) (limit : Option Nat) : Op Unit :=
  update fun s => s.setReader (BitReader.init lo hi limit)

/-- The current byte exhausted, the next one is loaded (rule R71). -/
def refill (r : BitReader) : Op BitReader := do
  if r.hi ≤ r.idx then raised .truncatedInput
  else
    let bs ← memRead r.idx 1
    return { r with cur := bs.headD 0, idx := r.idx + 1, nbits := 8 }

/-- `NextBit(br)` (rule R71). -/
def nextBit : Op Bool := do
  let r ← reader
  if r.limit ≤ r.pos then raised .truncatedInput
  else
    let r ← if r.nbits = 0 then refill r else pure r
    update fun s => s.setReader { r with nbits := r.nbits - 1 }
    return r.cur.getLsbD (r.nbits - 1)

/-- The bits still to read after the value `v` of those already read (rule R70). -/
def readBitsFrom (v : Nat) : Nat → Op Nat
  | 0 => pure v
  | n + 1 => do
    let b ← nextBit
    readBitsFrom (v * 2 + b.toNat) n

/-- `readBits(br, n)` (rules R70, R72): the first bit delivered is the most significant of the result. It has no
bound of its own on `n` (assumption 27). -/
def readBits (n : Nat) : Op Nat := readBitsFrom 0 n

/-- The padding check of rule R73 from stream bit `q` on, for `n` bits. -/
def checkZeroBits (lo : Nat) : Nat → Nat → Op Unit
  | _, 0 => pure ()
  | q, n + 1 => do
    let bs ← memRead (lo + q / 8) 1
    if (bs.headD 0).getLsbD (7 - q % 8) then raised .huffmanTableCorrupt
    else checkZeroBits lo (q + 1) n

/-- `BR_CHECKPAD(end)` (rule R73): every bit from `br.pos` up to `end` is 0; `br.limit` is ignored. -/
def brCheckpadOp (endBit : Nat) : Op Unit := do
  let r ← reader
  checkZeroBits r.lo r.pos (endBit - r.pos)
  update fun s => s.setReader { r with idx := r.lo + endBit / 8, nbits := 0 }

/-- BR_INIT, rule R69. -/
def execBrInit (lo hi : Nat) (limit : Option Nat) (s : State) : Host.Outcome State Fault Refusal :=
  runOp (brInitOp lo hi limit) s

/-- BR_READBITS, rules R70 and R72. -/
def execBrReadbits (n : Nat) (s : State) : Host.Outcome State Fault Refusal :=
  runValue (readBits n) s

/-- BR_REFILL, rule R71. -/
def execBrRefill (s : State) : Host.Outcome State Fault Refusal :=
  runValue (do return (← nextBit).toNat) s

/-- BR_CHECKPAD, rule R73. -/
def execBrCheckpad (endBit : Nat) (s : State) : Host.Outcome State Fault Refusal :=
  runOp (brCheckpadOp endBit) s

end Sys2Proof.Machine
end

