-- ==== Sys2Proof/Machine/Huffman.lean ====
section
/-! DEFINITION. The CanonicalHuffmanTable of 41_huffman_table.md: the run-coded description, the canonical code, the
decode tree and the walk. -/

namespace Sys2Proof.Machine

/-! ### The run-coded description -/

/-- `l[i .. i+|new|-1] <- new`. -/
def overwrite (l : List Nat) (i : Nat) (new : List Nat) : List Nat :=
  l.take i ++ new ++ l.drop (i + new.length)

/-- `T.len[i ..] <- new`. -/
def State.setLens (s : State) (t : TableId) (i : Nat) (new : List Nat) : State :=
  s.setTable t { s.table t with len := overwrite (s.table t).len i new }

/-- HT_RUN_EQUAL (rule R76): answers the next symbol index. The count is checked before the length is read. -/
def runEqualOp (t : TableId) (i : Nat) : Op Nat := do
  let s ← get
  let cnt := (← readBits s.cfg.runCountBits) + 2
  if (s.table t).size < i + cnt then raised .huffmanTableCorrupt
  else
    let l ← readBits s.cfg.tableLenBits
    update fun s => s.setLens t i (List.replicate cnt l)
    return i + cnt

/-- `n` length fields of `w` bits each. -/
def readLens (w : Nat) : Nat → Op (List Nat)
  | 0 => pure []
  | n + 1 => do
    let l ← readBits w
    let ls ← readLens w n
    return l :: ls

/-- HT_RUN_SET (rule R77): answers the next symbol index. The count is checked before any length is read. -/
def runSetOp (t : TableId) (i : Nat) : Op Nat := do
  let s ← get
  let cnt := (← readBits s.cfg.runCountBits) + 1
  if (s.table t).size < i + cnt then raised .huffmanTableCorrupt
  else
    let ls ← readLens s.cfg.tableLenBits cnt
    update fun s => s.setLens t i ls
    return i + cnt

/-- The runs of a description, while fewer than S lengths are given (rule R75). Every run gives at least one length, so
`fuel = S` is never used up. -/
def runsOp (t : TableId) : Nat → Nat → Op Unit
  | 0, _ => pure ()
  | fuel + 1, i => do
    let s ← get
    if i < (s.table t).size then
      let tag ← readBits 1
      let i' ← if tag = 1 then runEqualOp t i else runSetOp t i
      runsOp t fuel i'
    else pure ()

/-! ### The canonical code and the tree -/

/-- `cnt[l]`, the number of symbols with code length `l`; `cnt[0] = 0` (rule R79). -/
def lengthCount (lens : List Nat) (l : Nat) : Nat := if l = 0 then 0 else lens.count l

/-- `next[l]`, the first code of length `l`: `next[l] = (next[l-1] + cnt[l-1]) << 1`, from 0 (rule R80). -/
def firstCode (lens : List Nat) : Nat → Nat
  | 0 => 0
  | l + 1 => (firstCode lens l + lengthCount lens l) * 2

/-- `next[1 .. maxLen]`, with `next[0] = 0` (rule R80). -/
def firstCodes (lens : List Nat) (maxLen : Nat) : List Nat := (List.range (maxLen + 1)).map (firstCode lens)

/-- Code assignment in symbol order (rule R81): for each symbol from `sym` on with a length, its number, its length and
its code; `none` if a code does not fit its length. -/
def assignCodes : (lens : List Nat) → (sym : Nat) → (next : List Nat) → Option (List (Nat × Nat × Nat))
  | [], _, _ => some []
  | l :: lens, sym, next =>
    if l = 0 then assignCodes lens (sym + 1) next
    else
      let code := next.getD l 0
      if 2 ^ l ≤ code then none
      else (assignCodes lens (sym + 1) (next.set l (code + 1))).map fun rest => (sym, l, code) :: rest

/-- Child `b` of a node (rule R84): 0 is left, 1 is right. -/
def Node.child (n : Node) (b : Bool) : Option Nat := if b then n.c1 else n.c0

/-- Child `b` of a node set (rule R84). -/
def Node.setChild (n : Node) (b : Bool) (c : Nat) : Node :=
  if b then { n with c1 := some c } else { n with c0 := some c }

/-- A node appended to the arena; `none` if the arena is full (rule R86). -/
def addNode (cap : Option Nat) (nodes : List Node) (n : Node) : Option (List Node) :=
  if cap.any fun c => decide (c ≤ nodes.length) then none else some (nodes ++ [n])

/-- Tree insertion of one code (rule R84) from node `k` on: the lowest `i` bits of `code` are still to be walked, most
significant first. `none` is one of the collisions of rule R85 or a full arena. -/
def insertCode (cap : Option Nat) (sym code : Nat) : (i : Nat) → (k : Nat) → List Node → Option (List Node)
  | 0, _, nodes => some nodes
  | i + 1, k, nodes =>
    let b := code.testBit i
    let node := nodes.getD k {}
    match node.child b with
    | some c =>
      if i = 0 then none
      else if (nodes.getD c {}).sym.isSome then none
      else insertCode cap sym code i c nodes
    | none =>
      let c := nodes.length
      (addNode cap (nodes.set k (node.setChild b c)) { sym := if i = 0 then some sym else none }).bind fun nodes =>
        insertCode cap sym code i c nodes

/-- Tree insertion of every code in turn (rule R84). -/
def insertCodes (cap : Option Nat) : List (Nat × Nat × Nat) → List Node → Option (List Node)
  | [], nodes => some nodes
  | (sym, l, code) :: rest, nodes => (insertCode cap sym code l 0 nodes).bind (insertCodes cap rest)

/-- The arena for a table's lengths, or `none` for a structurally invalid table (rules R78 to R86). It is a function of
the lengths alone (rule R83). -/
def buildTree (cfg : Config) (lens : List Nat) : Option (List Node) :=
  (assignCodes lens 0 (firstCodes lens cfg.maxCodeLen)).bind fun codes =>
    (addNode cfg.arenaCapacity [] {}).bind (insertCodes cfg.arenaCapacity codes)

/-- HT_BUILD(T) (rule R78). -/
def htBuildOp (t : TableId) : Op Unit := fun s =>
  match buildTree s.cfg (s.table t).len with
  | some nodes => .ok () (s.setTable t { s.table t with node := nodes })
  | none => .error (.error .huffmanTableCorrupt) s

/-- HT_LOAD(T, S) (rule R75). -/
def htLoadOp (t : TableId) (size : Nat) : Op Unit := do
  update fun s => s.setTable t { size := size, len := List.replicate size 0, node := [] }
  runsOp t size 0
  htBuildOp t

/-! ### Walking the tree -/

/-- The walk of rule R87 from node `k`. -/
def walk (nodes : List Node) : (fuel : Nat) → (k : Nat) → Op Nat
  | 0, _ => raised .truncatedInput
  | fuel + 1, k => do
    let b ← nextBit
    match (nodes.getD k {}).child b with
    | none => raised .huffmanTableCorrupt
    | some c =>
      match (nodes.getD c {}).sym with
      | some v => pure v
      | none => walk nodes fuel c

/-- `decodeSymbol(T, br)` (rules R87 to R89). Every edge reads one bit, so a walk with one edge more than the reader has
bits left has already raised TruncatedInput. -/
def decodeSymbol (t : TableId) : Op Nat := do
  let s ← get
  let r ← reader
  walk (s.table t).node (r.limit - r.pos + 1) 0

/-! ### Meanings -/

/-- HT_LOAD, rule R75. -/
def execHtLoad (t : TableId) (size : Nat) (s : State) : Host.Outcome State Fault Refusal :=
  runOp (htLoadOp t size) s

/-- HT_RUN_EQUAL, rule R76. -/
def execHtRunEqual (t : TableId) (i : Nat) (s : State) : Host.Outcome State Fault Refusal :=
  runValue (runEqualOp t i) s

/-- HT_RUN_SET, rule R77. -/
def execHtRunSet (t : TableId) (i : Nat) (s : State) : Host.Outcome State Fault Refusal :=
  runValue (runSetOp t i) s

/-- HT_BUILD, rule R78. -/
def execHtBuild (t : TableId) (s : State) : Host.Outcome State Fault Refusal :=
  runOp (htBuildOp t) s

/-- HT_DECODE, rule R87. -/
def execHtDecode (t : TableId) (s : State) : Host.Outcome State Fault Refusal :=
  runValue (decodeSymbol t) s

end Sys2Proof.Machine
end

