-- ==== Sys2Proof/Machine/Lzh8.lean ====
section
/-! DEFINITION. The LZH8Decoder of 44_lzh8.md. -/

namespace Sys2Proof.Machine

/-- One table of LZH8_SETUP at address `a` (rule R109); it answers the address after its sub-stream, whose bits after
the description are ignored. -/
def lzh8TableOp (t : TableId) (size a : Nat) : Op Nat := do
  let w ← le16 a
  let s ← get
  let hi := a + 2 + 4 * w
  if s.inLen.toNat < hi then raised .truncatedInput
  else
    brInitOp (a + 2) hi none
    htLoadOp t size
    return hi

/-- The optional second length (rules R51, R109); it answers the address of the first size field. -/
def lzh8LengthOp : Op Nat := do
  let s ← get
  if s.declared = 0 then
    match s.cfg.extLenMode with
    | .error => raised .unsupportedFormat
    | .read =>
      let len ← le32 4
      update fun s => s.setDeclared len
      capacityCheckOp len
      return 8
  else return 4

/-- `LZH8_SETUP` (rule R109). -/
def lzh8SetupOp : Op Unit := do
  let a ← lzh8LengthOp
  let s ← get
  if s.declared = 0 then update State.complete
  else
    let a ← lzh8TableOp .t1 s.cfg.lzh8S1 a
    let a ← lzh8TableOp .t2 s.cfg.lzh8S2 a
    brInitOp a s.inLen.toNat none
    update fun s => s.setPhase .lzh8Body

/-- `LZH8_NEXT` (rule R114). -/
def State.lzh8Next (s : State) : State :=
  if s.oc = s.declared then s.complete else s.setPhase .lzh8Body

/-- `LZH8_DISPN` (rule R113). -/
def lzh8DispnOp (displen : Nat) : Op Nat := do
  let raw ← readBits (displen - 1)
  return lzh8Displacement displen raw

/-- The displacement of a displen symbol (rules R112, R113). A symbol of 32 or more, which only an alphabet above the
source's can hold, follows rule R113 as well: the model's choice (assumption 28). -/
def lzh8DispOp (displen : Nat) : Op Nat :=
  if displen = 0 then pure 0 else lzh8DispnOp displen

/-- `LZH8_REF` of a copy length (rule R111). -/
def lzh8RefOp (length : Nat) : Op Unit := do
  let _ ← decodeSymbol .t1
  let displen ← decodeSymbol .t2
  let d ← lzh8DispOp displen
  copyOp length (d + 1)
  update State.lzh8Next

/-- LZH8_SETUP, rule R109. -/
def execLzh8Setup (s : State) : Host.Outcome State Fault Refusal :=
  runOp lzh8SetupOp s

/-- LZH8_LIT, rule R110: the walk takes the literal's code. -/
def execLzh8Lit (b : Byte) (s : State) : Host.Outcome State Fault Refusal :=
  runOp (do
    let _ ← decodeSymbol .t1
    emitByte b
    update State.lzh8Next) s

/-- LZH8_REF, rule R111: the walk takes the length's code. -/
def execLzh8Ref (len3 : BitVec 8) (s : State) : Host.Outcome State Fault Refusal :=
  runOp (lzh8RefOp (lzh8Length len3)) s

/-- LZH8_DISP0, rule R112. -/
def execLzh8Disp0 (s : State) : Host.Outcome State Fault Refusal :=
  runValue (lzh8DispOp 0) s

/-- LZH8_DISPN, rule R113. -/
def execLzh8Dispn (displen : BitVec 5) (s : State) : Host.Outcome State Fault Refusal :=
  runValue (lzh8DispnOp displen.toNat) s

/-- LZH8_NEXT, rule R114. -/
def execLzh8Next (s : State) : Host.Outcome State Fault Refusal :=
  runOp (update State.lzh8Next) s

end Sys2Proof.Machine
end

