-- ==== Sys2Proof/Machine/Romchu.lean ====
section
/-! DEFINITION. The RomchuDecoder of 45_romchu.md. -/

namespace Sys2Proof.Machine

/-- The block header at `ip`, or the stream's end on a block boundary (rule R116). -/
def rcHeaderOp : Op Nat := do
  let s ← get
  if s.ip = s.inLen.toNat then raised .lengthMismatch
  else be32 s.ip

/-- The header of a block of size `n` taken: `ip`, `rc.n` and `rc.P` (rule R116). -/
def rcOpenOp (n : Nat) : Op Unit := do
  let _ ← rcHeaderOp
  update fun s => (s.setIp (s.ip + 4)).setRc { s.rc with n := n, payload := s.ip + 4 }

/-- The payload of a raw block (rule R117). LengthMismatch is checked before TruncatedInput. -/
def rcRawOp : Op Unit := do
  let s ← get
  if s.declared < s.oc + s.rc.n then raised .lengthMismatch
  else if s.inLen.toNat < s.rc.payload + s.rc.n then raised .truncatedInput
  else
    let bs ← memRead s.rc.payload s.rc.n
    update fun s =>
      let s := s.emitAll bs
      let next := s.rc.payload + s.rc.n
      let s := (s.setIp next).setRc { s.rc with next := next }
      if s.oc = s.declared then s.complete else s.setPhase .rcBlock

/-- `RC_NEXT` (rule R124). -/
def rcNextOp : Op Unit := do
  let r ← reader
  update fun s =>
    if r.pos < r.limit then s.setPhase .rcBody
    else
      let s := s.setIp s.rc.next
      if s.oc = s.declared then s.complete else s.setPhase .rcBlock

/-- `RC_TABLE(T, S, p)` (rule R119). -/
def rcTableOp (t : TableId) (size p : Nat) : Op Nat := do
  let s ← get
  if s.rc.n < p + 16 then raised .truncatedInput
  else
    brInitOp (s.rc.payload + p / 8) s.rc.next (some (s.rc.n - p))
    let tsz ← readBits 16
    let e := p + 16 + 8 * ceil8 tsz
    if s.rc.n < e then raised .truncatedInput
    else
      let lo := s.rc.payload + (p + 16) / 8
      brInitOp lo (lo + ceil8 tsz) (some tsz)
      htLoadOp t size
      brCheckpadOp (8 * ceil8 tsz)
      return e

/-- The payload of a compressed block up to its first token (rule R118). -/
def rcCompOp : Op Unit := do
  update fun s => s.setRc { s.rc with next := s.rc.payload + ceil8 s.rc.n }
  let s ← get
  if s.inLen.toNat < s.rc.next then raised .truncatedInput
  else
    let e1 ← rcTableOp .t1 s.cfg.rcS1 0
    let e2 ← rcTableOp .t2 s.cfg.rcS2 e1
    brInitOp (s.rc.payload + e2 / 8) s.rc.next (some (s.rc.n - e2))
    rcNextOp

/-- `RC_LEN_CLASS(c)` (rule R122). No class above 28 occurs (rule R63). -/
def rcLenClassOp (c : Nat) : Op Nat :=
  match lengthClasses[c]? with
  | some (base, extra) => do
    let v ← readBits extra
    return base + v
  | none => faulted .reservedRomchuSymbol1

/-- `RC_DIST_CLASS(dc)` (rule R123). No class above 29 occurs (rule R63). -/
def rcDistClassOp (dc : Nat) : Op Nat :=
  match distanceClasses[dc]? with
  | some (base, extra) => do
    let v ← readBits extra
    return base + v
  | none => faulted .reservedRomchuSymbol2

/-- `RC_REF` of a length class (rule R121): both symbols, then the length's extra bits, then the distance's. -/
def rcRefOp (c : Nat) : Op Unit := do
  let _ ← decodeSymbol .t1
  let dc ← decodeSymbol .t2
  let length ← rcLenClassOp c
  let distance ← rcDistClassOp dc
  copyOp length distance
  rcNextOp

/-- RC_BLK_RAW, rules R116 and R117. -/
def execRcBlkRaw (n : BitVec 31) (s : State) : Host.Outcome State Fault Refusal :=
  runOp (do
    rcOpenOp n.toNat
    rcRawOp) s

/-- RC_BLK_COMP, rules R116 and R118. -/
def execRcBlkComp (n : BitVec 31) (s : State) : Host.Outcome State Fault Refusal :=
  runOp (do
    rcOpenOp n.toNat
    rcCompOp) s

/-- `RC_BLOCK` (rule R116): the header's bit 31 selects the block's kind. -/
def rcBlockOp : Op Unit := do
  let w ← rcHeaderOp
  rcOpenOp (w % 0x80000000)
  if w < 0x80000000 then rcRawOp else rcCompOp

/-- RC_BLOCK, rule R116. -/
def execRcBlock (s : State) : Host.Outcome State Fault Refusal :=
  runOp rcBlockOp s

/-- RC_TABLE, rule R119. -/
def execRcTable (t : TableId) (size p : Nat) (s : State) : Host.Outcome State Fault Refusal :=
  runValue (rcTableOp t size p) s

/-- RC_LIT, rule R120: the walk takes the literal's code before the output is checked. -/
def execRcLit (b : Byte) (s : State) : Host.Outcome State Fault Refusal :=
  runOp (do
    let _ ← decodeSymbol .t1
    let s ← get
    if s.oc = s.declared then raised .lengthMismatch
    else
      emitByte b
      rcNextOp) s

/-- RC_REF, rule R121. -/
def execRcRef (cls : BitVec 8) (s : State) : Host.Outcome State Fault Refusal :=
  runOp (rcRefOp cls.toNat) s

/-- RC_LEN_CLASS, rule R122. -/
def execRcLenClass (c : Nat) (s : State) : Host.Outcome State Fault Refusal :=
  runValue (rcLenClassOp c) s

/-- RC_DIST_CLASS, rule R123. -/
def execRcDistClass (dc : BitVec 5) (s : State) : Host.Outcome State Fault Refusal :=
  runValue (rcDistClassOp dc.toNat) s

/-- RC_NEXT, rule R124. -/
def execRcNext (s : State) : Host.Outcome State Fault Refusal :=
  runOp rcNextOp s

/-- RESERVED_RC_SYM1, rules R63 and R67: the symbol cannot occur. -/
def execReservedRcSym1 (_sym : BitVec 9) (s : State) : Host.Outcome State Fault Refusal :=
  runOp (faulted .reservedRomchuSymbol1) s

/-- RESERVED_RC_SYM2, rules R63 and R67: the symbol cannot occur. -/
def execReservedRcSym2 (_sym : BitVec 5) (s : State) : Host.Outcome State Fault Refusal :=
  runOp (faulted .reservedRomchuSymbol2) s

end Sys2Proof.Machine
end

