-- ==== Sys2Proof/Machine/SlidingWindow.lean ====
section
/-! DEFINITION. The SlidingWindowDecoder of 42_sliding_window.md: LZ10, LZ11 and N64LZ, and Copy. Each meaning takes
its own encoding's bytes at `ip`. -/

namespace Sys2Proof.Machine

/-- `LZ_NEXT` (rule R99). -/
def State.lzNext (s : State) : State :=
  let s := s.setFcnt (s.fcnt - 1)
  if s.oc = s.declared then s.complete
  else if s.fcnt = 0 then s.setPhase .lzFlag
  else s.setPhase .lzToken

/-- An LZ back-reference token of `n` bytes (rules R94 to R97). -/
def lzRefOp (n length distance : Nat) : Op Unit := do
  let _ ← takeBytes n
  copyOp length distance
  update State.lzNext

/-- LZ_FLAGS, rule R92. -/
def execLzFlags (flag : Byte) (s : State) : Host.Outcome State Fault Refusal :=
  runOp (do
    let _ ← takeBytes 1
    update fun s => (s.setFlags flag).setPhase .lzToken) s

/-- LZ_LIT, rule R93. -/
def execLzLit (b : Byte) (s : State) : Host.Outcome State Fault Refusal :=
  runOp (do
    let _ ← takeBytes 1
    emitByte b
    update State.lzNext) s

/-- LZ10_REF, rule R94. -/
def execLz10Ref (lm3 : BitVec 4) (dm1 : BitVec 12) (s : State) : Host.Outcome State Fault Refusal :=
  runOp (lzRefOp 2 (lz10Length lm3) (lzDistance dm1)) s

/-- LZ11_REF_SHORT, rule R95. -/
def execLz11RefShort (len1 : BitVec 4) (dm1 : BitVec 12) (s : State) : Host.Outcome State Fault Refusal :=
  runOp (lzRefOp 2 (lz11ShortLength len1) (lzDistance dm1)) s

/-- LZ11_REF_LONG, rule R96. -/
def execLz11RefLong (len17 : BitVec 8) (dm1 : BitVec 12) (s : State) : Host.Outcome State Fault Refusal :=
  runOp (lzRefOp 3 (lz11LongLength len17) (lzDistance dm1)) s

/-- LZ11_REF_MED, rule R97. -/
def execLz11RefMed (len273 : BitVec 16) (dm1 : BitVec 12) (s : State) : Host.Outcome State Fault Refusal :=
  runOp (lzRefOp 4 (lz11MedLength len273) (lzDistance dm1)) s

/-- COPY, rule R98. -/
def execCopy (length distance : Nat) (s : State) : Host.Outcome State Fault Refusal :=
  runOp (copyOp length distance) s

/-- LZ_NEXT, rule R99. -/
def execLzNext (s : State) : Host.Outcome State Fault Refusal :=
  runOp (update State.lzNext) s

end Sys2Proof.Machine
end

