-- ==== Sys2Proof/Machine/Dispatch.lean ====
section
/-! DEFINITION. Each operation's meaning, one arm per row of spec/opcode_table.json. -/

namespace Sys2Proof.Machine

def exec (i : Instr) (s : State) : Host.Outcome State Fault Refusal :=
  match i with
  | .cmdStart => Sys2Proof.Machine.execCmdStart s
  | .illegalHint7 => Sys2Proof.Machine.execIllegalHint7 s
  | .dispatch => Sys2Proof.Machine.execDispatch s
  | .tagPresent b0 b1 b2 b3 => Sys2Proof.Machine.execTagPresent b0 b1 b2 b3 s
  | .dispatchLz10 len => Sys2Proof.Machine.execDispatchLz10 len s
  | .dispatchLz11 len => Sys2Proof.Machine.execDispatchLz11 len s
  | .dispatchHuf8 len => Sys2Proof.Machine.execDispatchHuf8 len s
  | .dispatchLzh8 len => Sys2Proof.Machine.execDispatchLzh8 len s
  | .illegalLeType type len => Sys2Proof.Machine.execIllegalLeType type len s
  | .dispatchN64lz len => Sys2Proof.Machine.execDispatchN64lz len s
  | .dispatchRomchu len => Sys2Proof.Machine.execDispatchRomchu len s
  | .illegalNtype0 len => Sys2Proof.Machine.execIllegalNtype0 len s
  | .illegalNtype3 len => Sys2Proof.Machine.execIllegalNtype3 len s
  | .capacityCheck len => Sys2Proof.Machine.execCapacityCheck len s
  | .entry f len => Sys2Proof.Machine.execEntry f len s
  | .brInit lo hi limit => Sys2Proof.Machine.execBrInit lo hi limit s
  | .brReadbits n => Sys2Proof.Machine.execBrReadbits n s
  | .brRefill => Sys2Proof.Machine.execBrRefill s
  | .brCheckpad endBit => Sys2Proof.Machine.execBrCheckpad endBit s
  | .htLoad t size => Sys2Proof.Machine.execHtLoad t size s
  | .htRunEqual t idx => Sys2Proof.Machine.execHtRunEqual t idx s
  | .htRunSet t idx => Sys2Proof.Machine.execHtRunSet t idx s
  | .htBuild t => Sys2Proof.Machine.execHtBuild t s
  | .htDecode t => Sys2Proof.Machine.execHtDecode t s
  | .lzFlags flag => Sys2Proof.Machine.execLzFlags flag s
  | .lzLit b => Sys2Proof.Machine.execLzLit b s
  | .lz10Ref lm3 dm1 => Sys2Proof.Machine.execLz10Ref lm3 dm1 s
  | .lz11RefShort len1 dm1 => Sys2Proof.Machine.execLz11RefShort len1 dm1 s
  | .lz11RefMed len273 dm1 => Sys2Proof.Machine.execLz11RefMed len273 dm1 s
  | .lz11RefLong len17 dm1 => Sys2Proof.Machine.execLz11RefLong len17 dm1 s
  | .copy length distance => Sys2Proof.Machine.execCopy length distance s
  | .lzNext => Sys2Proof.Machine.execLzNext s
  | .h8Setup => Sys2Proof.Machine.execH8Setup s
  | .h8Poolbit => Sys2Proof.Machine.execH8Poolbit s
  | .h8Bit0 => Sys2Proof.Machine.execH8Bit0 s
  | .h8Bit1 => Sys2Proof.Machine.execH8Bit1 s
  | .emitLeaf child => Sys2Proof.Machine.execEmitLeaf child s
  | .checkChild l0 l1 off => Sys2Proof.Machine.execCheckChild l0 l1 off s
  | .lzh8Setup => Sys2Proof.Machine.execLzh8Setup s
  | .lzh8Lit b => Sys2Proof.Machine.execLzh8Lit b s
  | .lzh8Ref len3 => Sys2Proof.Machine.execLzh8Ref len3 s
  | .lzh8Disp0 => Sys2Proof.Machine.execLzh8Disp0 s
  | .lzh8Dispn displen => Sys2Proof.Machine.execLzh8Dispn displen s
  | .lzh8Next => Sys2Proof.Machine.execLzh8Next s
  | .rcBlock => Sys2Proof.Machine.execRcBlock s
  | .rcBlkRaw n => Sys2Proof.Machine.execRcBlkRaw n s
  | .rcBlkComp n => Sys2Proof.Machine.execRcBlkComp n s
  | .rcTable t size p => Sys2Proof.Machine.execRcTable t size p s
  | .rcLit b => Sys2Proof.Machine.execRcLit b s
  | .rcRef cls => Sys2Proof.Machine.execRcRef cls s
  | .rcLenClass c => Sys2Proof.Machine.execRcLenClass c s
  | .rcDistClass dc => Sys2Proof.Machine.execRcDistClass dc s
  | .rcNext => Sys2Proof.Machine.execRcNext s
  | .reservedRcSym1 sym => Sys2Proof.Machine.execReservedRcSym1 sym s
  | .reservedRcSym2 sym => Sys2Proof.Machine.execReservedRcSym2 sym s
  | .raise e => Sys2Proof.Machine.execRaise e s
  | .complete => Sys2Proof.Machine.execComplete s

end Sys2Proof.Machine
end

