-- ==== Sys2Proof/WellFormed.lean ====
section
/-! DEFINITION. Which operations the encodings and the rules admit: the checks on operands that the operand types do
not already make. -/

namespace Sys2Proof

/-- The TYPE values of an LE header that name a format (30_encoding.md rule R48). -/
def knownLeType (type : Byte) : Bool :=
  type = 0x10#8 || type = 0x11#8 || type = 0x28#8 || type = 0x40#8

/-- An operation the spec's encodings and operand ranges admit. The check cites the rule that sets each range. -/
def Instr.wf : Instr → Bool
  | .cmdStart => true
  | .illegalHint7 => true
  | .dispatch => true
  | .tagPresent _ _ _ _ => true
  | .dispatchLz10 _ => true
  | .dispatchLz11 _ => true
  | .dispatchHuf8 _ => true
  | .dispatchLzh8 _ => true
  | .illegalLeType type _ => !knownLeType type                     -- R48, R67
  | .dispatchN64lz _ => true
  | .dispatchRomchu _ => true
  | .illegalNtype0 _ => true
  | .illegalNtype3 _ => true
  | .capacityCheck _ => true
  | .entry _ _ => true
  | .brInit lo hi limit => lo ≤ hi && limit.getD 0 ≤ (hi - lo) * 8 -- R69
  | .brReadbits n => n ≤ 32                                        -- R70; assumption 27
  | .brRefill => true
  | .brCheckpad endBit => endBit % 8 = 0                           -- R73
  | .htLoad _ size => size = 512 || size = 32 || size = 285 || size = 30 -- R75
  | .htRunEqual _ _ => true
  | .htRunSet _ _ => true
  | .htBuild _ => true
  | .htDecode _ => true
  | .lzFlags _ => true
  | .lzLit _ => true
  | .lz10Ref _ _ => true
  | .lz11RefShort len1 _ => 2 ≤ len1.toNat                         -- R54
  | .lz11RefMed _ _ => true
  | .lz11RefLong _ _ => true
  | .copy length _ => 1 ≤ length                                   -- R98
  | .lzNext => true
  | .h8Setup => true
  | .h8Poolbit => true
  | .h8Bit0 => true
  | .h8Bit1 => true
  | .emitLeaf _ => true
  | .checkChild _ _ _ => true
  | .lzh8Setup => true
  | .lzh8Lit _ => true
  | .lzh8Ref _ => true
  | .lzh8Disp0 => true
  | .lzh8Dispn displen => 1 ≤ displen.toNat                        -- R60, R113
  | .lzh8Next => true
  | .rcBlock => true
  | .rcBlkRaw _ => true
  | .rcBlkComp _ => true
  | .rcTable _ _ p => p % 8 = 0                                    -- R119
  | .rcLit _ => true
  | .rcRef cls => cls.toNat ≤ 28                                   -- R63
  | .rcLenClass c => c ≤ 28                                        -- R64
  | .rcDistClass dc => dc.toNat ≤ 29                               -- R65
  | .rcNext => true
  | .reservedRcSym1 sym => 0x11D ≤ sym.toNat                       -- R63, R67
  | .reservedRcSym2 sym => 30 ≤ sym.toNat                          -- R63, R67
  | .raise _ => true
  | .complete => true

end Sys2Proof
end

