-- ==== Sys2Proof/Decode.lean ====
section
/-! DEFINITION. The decoder and the encoder of the stream encodings (30_encoding.md). What selects an operation is a
value in a decode context (rule R47), not an instruction word: the decoder takes the context, the value the context's
match applies to, and the bytes that follow the value. It is total and rejects by name. -/

namespace Sys2Proof

/-- The decode contexts of rule R47. The table's context HOST covers two registers, CTRL and TAG_HINT, told apart here.
A context of a sub-operation carries the operands its caller passes. INTERNAL has no value and so no context here. -/
inductive Context
  /-- HOST: a host write to CTRL. -/
  | hostCtrl
  /-- HOST: the value of TAG_HINT (the row ILLEGAL_HINT7). -/
  | hostHint
  /-- PREFIX32: IN bytes 0..3 as BE32(0). -/
  | prefix32
  /-- HDR_LE32: the LE header word. -/
  | hdrLe32
  /-- HDR_BE32: the N64 header word. -/
  | hdrBe32
  /-- LZ_FLAGBIT: the next flag bit. -/
  | lzFlagbit
  /-- LZ_FLAG8: the flag byte. -/
  | lzFlag8
  /-- LZ10_TOK16: the 2-byte token. -/
  | lz10Tok16
  /-- LZ11_INFO16: the first two bytes of an LZ11 token. -/
  | lz11Info16
  /-- H8_BIT: the next pool bit. -/
  | h8Bit
  /-- H8_NODE8: a Huf8 node byte. -/
  | h8Node8
  /-- HT_RUN: the run tag bit, read for table `t` at symbol index `i`. -/
  | htRun (t : TableId) (i : Nat)
  /-- HT_BIT: one bit read during a walk of table `t`. -/
  | htBit (t : TableId)
  /-- LZH8_SYM1: a symbol of LZH8 table T1. -/
  | lzh8Sym1
  /-- LZH8_SYM2: a displen symbol of LZH8 table T2. -/
  | lzh8Sym2
  /-- RC_BLKHDR32: a Romchu block header. -/
  | rcBlkhdr32
  /-- RC_SYM1: a symbol of Romchu table T1. -/
  | rcSym1
  /-- RC_SYM2: a symbol of Romchu table T2. -/
  | rcSym2
  deriving DecidableEq, Repr

/-- Why a value selects no operation. -/
inductive DecodeError
  /-- The value does not fit the context's width (rule R47). -/
  | tooWide
  /-- The operation's encoding goes on past the bytes given. -/
  | needsBytes
  /-- A write to CTRL with START = 0 has no effect (rule R15). -/
  | noCommand
  /-- A hint other than 7 is no operation by itself (rule R16). -/
  | plainHint
  /-- Flag bit 1 selects a back-reference; its token is decoded in another context (rule R52). -/
  | selectsBackReference
  deriving DecidableEq, Repr

/-- The width in bits of the value a context's match applies to (rule R47). -/
def Context.width : Context → Nat
  | .hostCtrl => 32
  | .hostHint => 32
  | .prefix32 => 32
  | .hdrLe32 => 32
  | .hdrBe32 => 32
  | .lzFlagbit => 1
  | .lzFlag8 => 8
  | .lz10Tok16 => 16
  | .lz11Info16 => 16
  | .h8Bit => 1
  | .h8Node8 => 8
  | .htRun _ _ => 1
  | .htBit _ => 1
  | .lzh8Sym1 => 9
  | .lzh8Sym2 => 5
  | .rcBlkhdr32 => 32
  | .rcSym1 => 9
  | .rcSym2 => 5

/-- The `w`-bit field of `v` whose least significant bit is bit `lo` (rule R7: `v[lo+w-1:lo]`). -/
def bitField (w lo v : Nat) : BitVec w := BitVec.ofNat w (v / 2 ^ lo)

/-- An LE header word (rules R48, R67). -/
def decodeHdrLe32 (v : Nat) : Instr :=
  let type := bitField 8 0 v
  let len := bitField 24 8 v
  if type = 0x10#8 then .dispatchLz10 len
  else if type = 0x11#8 then .dispatchLz11 len
  else if type = 0x28#8 then .dispatchHuf8 len
  else if type = 0x40#8 then .dispatchLzh8 len
  else .illegalLeType type len

/-- An N64 header word (rules R49, R67). -/
def decodeHdrBe32 (v : Nat) : Instr :=
  let ntype := bitField 2 0 v
  let len := bitField 30 2 v
  if ntype = 1#2 then .dispatchN64lz len
  else if ntype = 2#2 then .dispatchRomchu len
  else if ntype = 0#2 then .illegalNtype0 len
  else .illegalNtype3 len

/-- How many bytes an LZ11 token has after its first two (rule R54). -/
def lz11ExtraBytes (info : Nat) : Nat :=
  if info < 0x1000 then 1 else if info < 0x2000 then 2 else 0

/-- An LZ11 token: its first two bytes as one big-endian value, then the bytes after them (rules R54, R55). -/
def decodeLz11 (info : Nat) (rest : List Byte) : Except DecodeError Instr :=
  if info < 0x1000 then
    match rest with
    | extra :: _ => .ok (.lz11RefLong (bitField 8 4 info) (bitField 12 0 (info * 256 + extra.toNat)))
    | [] => .error .needsBytes
  else if info < 0x2000 then
    match rest with
    | extra :: next :: _ =>
      let w := (info * 256 + extra.toNat) * 256 + next.toNat
      .ok (.lz11RefMed (bitField 16 12 w) (bitField 12 0 w))
    | _ => .error .needsBytes
  else .ok (.lz11RefShort (bitField 4 12 info) (bitField 12 0 info))

/-- The operation a value selects in a context (rules R47 to R67). `rest` are the bytes after the value. -/
def decode (c : Context) (v : Nat) (rest : List Byte) : Except DecodeError Instr :=
  if 2 ^ c.width ≤ v then .error .tooWide
  else match c with
  | .hostCtrl => if v % 2 = 1 then .ok .cmdStart else .error .noCommand
  | .hostHint => if v % 8 = 7 then .ok .illegalHint7 else .error .plainHint
  | .prefix32 => .ok (.tagPresent (bitField 8 24 v) (bitField 8 16 v) (bitField 8 8 v) (bitField 8 0 v))
  | .hdrLe32 => .ok (decodeHdrLe32 v)
  | .hdrBe32 => .ok (decodeHdrBe32 v)
  | .lzFlagbit =>
    if v = 0 then
      match rest with
      | b :: _ => .ok (.lzLit b)
      | [] => .error .needsBytes
    else .error .selectsBackReference
  | .lzFlag8 => .ok (.lzFlags (bitField 8 0 v))
  | .lz10Tok16 => .ok (.lz10Ref (bitField 4 12 v) (bitField 12 0 v))
  | .lz11Info16 => decodeLz11 v rest
  | .h8Bit => if v = 0 then .ok .h8Bit0 else .ok .h8Bit1
  | .h8Node8 => .ok (.checkChild (bitField 1 7 v) (bitField 1 6 v) (bitField 6 0 v))
  | .htRun t i => if v = 1 then .ok (.htRunEqual t i) else .ok (.htRunSet t i)
  | .htBit t => .ok (.htDecode t)
  | .lzh8Sym1 => if v < 0x100 then .ok (.lzh8Lit (bitField 8 0 v)) else .ok (.lzh8Ref (bitField 8 0 v))
  | .lzh8Sym2 => if v = 0 then .ok .lzh8Disp0 else .ok (.lzh8Dispn (bitField 5 0 v))
  | .rcBlkhdr32 =>
    if v < 0x80000000 then .ok (.rcBlkRaw (bitField 31 0 v)) else .ok (.rcBlkComp (bitField 31 0 v))
  | .rcSym1 =>
    if v < 0x100 then .ok (.rcLit (bitField 8 0 v))
    else if v < 0x11D then .ok (.rcRef (bitField 8 0 v))
    else .ok (.reservedRcSym1 (bitField 9 0 v))
  | .rcSym2 => if v < 30 then .ok (.rcDistClass (bitField 5 0 v)) else .ok (.reservedRcSym2 (bitField 5 0 v))

/-- An encoded operation: the context, the value in it, and the bytes after the value. -/
structure Encoding where
  ctx : Context
  value : Nat
  rest : List Byte
  deriving DecidableEq, Repr

/-- The encoding of an operation, written from the tables of 30_encoding.md; `none` for an operation of context
INTERNAL, which has no stream encoding (rule R47). Bits the spec calls reserved or ignored are 0. -/
def encode : Instr → Option Encoding
  | .cmdStart => some ⟨.hostCtrl, 1, []⟩
  | .illegalHint7 => some ⟨.hostHint, 7, []⟩
  | .dispatch => none
  | .tagPresent b0 b1 b2 b3 =>
    some ⟨.prefix32, b0.toNat * 2 ^ 24 + b1.toNat * 2 ^ 16 + b2.toNat * 2 ^ 8 + b3.toNat, []⟩
  | .dispatchLz10 len => some ⟨.hdrLe32, len.toNat * 256 + 0x10, []⟩
  | .dispatchLz11 len => some ⟨.hdrLe32, len.toNat * 256 + 0x11, []⟩
  | .dispatchHuf8 len => some ⟨.hdrLe32, len.toNat * 256 + 0x28, []⟩
  | .dispatchLzh8 len => some ⟨.hdrLe32, len.toNat * 256 + 0x40, []⟩
  | .illegalLeType type len => some ⟨.hdrLe32, len.toNat * 256 + type.toNat, []⟩
  | .dispatchN64lz len => some ⟨.hdrBe32, len.toNat * 4 + 1, []⟩
  | .dispatchRomchu len => some ⟨.hdrBe32, len.toNat * 4 + 2, []⟩
  | .illegalNtype0 len => some ⟨.hdrBe32, len.toNat * 4, []⟩
  | .illegalNtype3 len => some ⟨.hdrBe32, len.toNat * 4 + 3, []⟩
  | .capacityCheck _ => none
  | .entry _ _ => none
  | .brInit _ _ _ => none
  | .brReadbits _ => none
  | .brRefill => none
  | .brCheckpad _ => none
  | .htLoad _ _ => none
  | .htRunEqual t i => some ⟨.htRun t i, 1, []⟩
  | .htRunSet t i => some ⟨.htRun t i, 0, []⟩
  | .htBuild _ => none
  | .htDecode t => some ⟨.htBit t, 0, []⟩
  | .lzFlags flag => some ⟨.lzFlag8, flag.toNat, []⟩
  | .lzLit b => some ⟨.lzFlagbit, 0, [b]⟩
  | .lz10Ref lm3 dm1 => some ⟨.lz10Tok16, lm3.toNat * 4096 + dm1.toNat, []⟩
  | .lz11RefShort len1 dm1 => some ⟨.lz11Info16, len1.toNat * 4096 + dm1.toNat, []⟩
  | .lz11RefMed len273 dm1 =>
    some ⟨.lz11Info16, 0x1000 + len273.toNat / 16,
      [BitVec.ofNat 8 (len273.toNat % 16 * 16 + dm1.toNat / 256), BitVec.ofNat 8 (dm1.toNat % 256)]⟩
  | .lz11RefLong len17 dm1 =>
    some ⟨.lz11Info16, len17.toNat * 16 + dm1.toNat / 256, [BitVec.ofNat 8 (dm1.toNat % 256)]⟩
  | .copy _ _ => none
  | .lzNext => none
  | .h8Setup => none
  | .h8Poolbit => none
  | .h8Bit0 => some ⟨.h8Bit, 0, []⟩
  | .h8Bit1 => some ⟨.h8Bit, 1, []⟩
  | .emitLeaf _ => none
  | .checkChild l0 l1 off => some ⟨.h8Node8, l0.toNat * 128 + l1.toNat * 64 + off.toNat, []⟩
  | .lzh8Setup => none
  | .lzh8Lit b => some ⟨.lzh8Sym1, b.toNat, []⟩
  | .lzh8Ref len3 => some ⟨.lzh8Sym1, 0x100 + len3.toNat, []⟩
  | .lzh8Disp0 => some ⟨.lzh8Sym2, 0, []⟩
  | .lzh8Dispn displen => some ⟨.lzh8Sym2, displen.toNat, []⟩
  | .lzh8Next => none
  | .rcBlock => none
  | .rcBlkRaw n => some ⟨.rcBlkhdr32, n.toNat, []⟩
  | .rcBlkComp n => some ⟨.rcBlkhdr32, 0x80000000 + n.toNat, []⟩
  | .rcTable _ _ _ => none
  | .rcLit b => some ⟨.rcSym1, b.toNat, []⟩
  | .rcRef cls => some ⟨.rcSym1, 0x100 + cls.toNat, []⟩
  | .rcLenClass _ => none
  | .rcDistClass dc => some ⟨.rcSym2, dc.toNat, []⟩
  | .rcNext => none
  | .reservedRcSym1 sym => some ⟨.rcSym1, sym.toNat, []⟩
  | .reservedRcSym2 sym => some ⟨.rcSym2, sym.toNat, []⟩
  | .raise _ => none
  | .complete => none

/-- The context in which a bare word of the opcode table is read. The table's words carry no context, and one word can
be a row of several contexts (0x1 is CMD_START, DISPATCH_N64LZ, HT_RUN_EQUAL and H8_BIT1): assumption 3 gives this
order of preference. -/
def tableContext (nbits w : Nat) : Context :=
  if w = 7 then .hostHint
  else if w = 1 then .hostCtrl
  else if w = 2 ∨ w = 3 then .hdrBe32
  else if 8 < nbits ∧ nbits ≤ 16 then
    if w = 0 then .lz11Info16
    else if w < 0x11D then .lzh8Sym1
    else if w < 0x200 then .rcSym1
    else .lz11Info16
  else if w = 0x1E ∨ w = 0x1F then .rcSym2
  else if w % 256 = 0x10 ∨ w % 256 = 0x11 ∨ w % 256 = 0x28 ∨ w % 256 = 0x40 then .hdrLe32
  else if nbits ≤ 8 then
    if w = 0 then .lzFlagbit else .lzFlag8
  else if w = 0 ∨ 0x80000000 ≤ w then .rcBlkhdr32
  else .hdrLe32

/-- The operation the decoder reads from a bare word of the opcode table, read in `tableContext`, with every byte after
the word 0. -/
def decodeTableWord (nbits w : Nat) : Option Instr :=
  match decode (tableContext nbits w) w [0#8, 0#8] with
  | .ok i => some i
  | .error _ => none

end Sys2Proof
end

