-- ==== Sys2Proof/Machine/Fetch.lean ====
section
/-! DEFINITION. How the engine selects its next operation: by the phase and by the bits at the input cursor (rule R21).
Also how a bare word of the opcode table is placed where the machine selects it. -/

namespace Sys2Proof.Machine

/-- What the engine does at its next turn. -/
inductive Fetch
  /-- no operation is enabled: the engine waits for START. -/
  | wait
  /-- the operation runs. -/
  | run (i : Instr)
  /-- the selection itself raises (rules R89, R100). -/
  | error (e : ErrCode)
  /-- the machine stops. -/
  | fault (f : Fault)
  deriving DecidableEq, Repr

/-- The selection a decoded value makes. -/
def Fetch.ofDecode : Except DecodeError Instr → Fetch
  | .ok i => .run i
  | .error .needsBytes => .error .truncatedInput
  | .error _ => .fault .symbolTooWide

/-- The selection made from what an operation reads at the cursor; the read itself does not move it. -/
def fetchWith (op : Op (Except DecodeError Instr)) (s : State) : Fetch :=
  match op s with
  | .ok d _ => .ofDecode d
  | .error (.error e) _ => .error e
  | .error (.fault f) _ => .fault f

/-- The flag byte at `ip` (rule R92). -/
def lookFlags : Op (Except DecodeError Instr) := do
  let s ← get
  let bs ← memRead s.ip 1
  return decode .lzFlag8 (beValue bs) []

/-- The literal at `ip` (rule R93). -/
def lookLiteral : Op (Except DecodeError Instr) := do
  let s ← get
  let bs ← memRead s.ip 1
  return decode .lzFlagbit 0 bs

/-- The LZ10 token at `ip` (rule R94). -/
def lookLz10 : Op (Except DecodeError Instr) := do
  let s ← get
  let t ← be16 s.ip
  return decode .lz10Tok16 t []

/-- The LZ11 token at `ip`: its first two bytes, then as many more as its form has (rule R54). -/
def lookLz11 : Op (Except DecodeError Instr) := do
  let s ← get
  let info ← be16 s.ip
  let rest ← memRead (s.ip + 2) (lz11ExtraBytes info)
  return decode .lz11Info16 info rest

/-- The next LZ token, by the flag bit and the format (rule R100). -/
def lookToken : Op (Except DecodeError Instr) := do
  let s ← get
  if s.flagBit = false then lookLiteral
  else if s.fmt = Format.lz10.code ∨ s.fmt = Format.n64lz.code then lookLz10
  else lookLz11

/-- The next pool bit (rules R104, R105). -/
def lookPoolBit : Op (Except DecodeError Instr) := do
  let b ← poolBit
  return decode .h8Bit b.toNat []

/-- The next symbol of T1, in its context (rules R114, R124). -/
def lookSymbol (c : Context) : Op (Except DecodeError Instr) := do
  let v ← decodeSymbol .t1
  return decode c v []

/-- The operation enabled in a state: exactly one in each phase but IDLE and DONE (rule R21). -/
def fetch (s : State) : Fetch :=
  match s.phase with
  | .idle => .wait
  | .dispatch => .run .dispatch
  | .lzFlag => fetchWith lookFlags s
  | .lzToken => fetchWith lookToken s
  | .h8Setup => .run .h8Setup
  | .h8Walk => fetchWith lookPoolBit s
  | .lzh8Setup => .run .lzh8Setup
  | .lzh8Body => fetchWith (lookSymbol .lzh8Sym1) s
  | .rcBlock => .run .rcBlock
  | .rcBody => fetchWith (lookSymbol .rcSym1) s
  | .done => .wait

/-! ### Placing a word of the opcode table -/

/-- Bytes written to IN from an address on. -/
def placeIn (a : Nat) : List Byte → State → State
  | [], s => s
  | b :: bs, s => placeIn (a + 1) bs { s with inMem := Memory.write a b s.inMem }

/-- The `n` bytes of a value, most significant first. -/
def beBytes (n v : Nat) : List Byte := (List.range n).map fun k => BitVec.ofNat 8 (v / 256 ^ (n - 1 - k))

/-- A state in which the engine is about to run in a phase, IN holds bytes from an address on and IN_LEN ends after
them, and no host turn comes first. -/
def placeAt (p : Phase) (a : Nat) (bs : List Byte) (s : State) : State :=
  { placeIn a bs s with phase := p, inLen := BitVec.ofNat 32 (a + bs.length), host := [] }

/-- A tree whose left edge leads from the root to a leaf holding `v`: the bit 0 is its code. -/
def oneLeaf (v : Nat) : List Node := [{ c0 := some 1 }, { sym := some v }]

/-- A state about to run in a body phase, with a body of one zero byte at address 0, T1 giving the symbol `v1` and T2
the symbol `v2` for a 0 bit. -/
def placeSymbol (p : Phase) (v1 v2 : Nat) (s : State) : State :=
  { placeAt p 0 [0#8] s with
    br := some (BitReader.init 0 1 none)
    t1 := { s.t1 with node := oneLeaf v1 }
    t2 := { s.t2 with node := oneLeaf v2 } }

/-- A state whose next step reads the value `v` in a context. A value of a sub-operation's context stands where the
operation that invokes the sub-operation reads it. -/
def placeValue (c : Context) (v : Nat) (s : State) : State :=
  match c with
  | .hostCtrl => { s with host := [.writeReg .ctrl (BitVec.ofNat 32 v)], status := { s.status with busy := false } }
  | .hostHint => { s with hint := BitVec.ofNat 3 v, phase := .dispatch, host := [] }
  | .prefix32 => { placeAt .dispatch 0 (beBytes 4 v ++ [0x10#8, 0#8, 0#8, 0#8]) s with hint := 0 }
  | .hdrLe32 => { placeAt .dispatch 0 (beBytes 4 v).reverse s with hint := 0 }
  | .hdrBe32 => { placeAt .dispatch 0 (beBytes 4 v) s with hint := if v % 4 = 2 then 6 else 3 }
  | .lzFlagbit =>
    { placeAt .lzToken s.ip [0#8, 0#8] s with
      flag := BitVec.ofNat 8 v, fcnt := 1, fmt := Format.lz10.code, declared := s.oc + 1 }
  | .lzFlag8 => placeAt .lzFlag s.ip [BitVec.ofNat 8 v] s
  | .lz10Tok16 =>
    { placeAt .lzToken s.ip (beBytes 2 v) s with
      flag := 1, fcnt := 1, fmt := Format.lz10.code, declared := s.oc + 1 }
  | .lz11Info16 =>
    { placeAt .lzToken s.ip (beBytes 2 v ++ [0#8, 0#8]) s with
      flag := 1, fcnt := 1, fmt := Format.lz11.code, declared := s.oc + 1 }
  | .h8Bit =>
    { placeAt .h8Walk 5 [0xC0#8, 0#8, 0#8] s with
      h8 := { sc := 2, tsize := 3, cur := 0, pidx := 8, pw := BitVec.ofNat 32 v, pbits := 1 }
      declared := s.oc + 1 }
  | .h8Node8 =>
    { placeAt .h8Walk 5 [BitVec.ofNat 8 v, 0#8, 0#8] s with
      h8 := { sc := 2, tsize := 3, cur := 0, pidx := 8, pw := 0, pbits := 1 }
      declared := s.oc + 1 }
  | .htRun _ _ =>
    { placeAt .lzh8Setup 0 ([0x40#8, 1#8, 0#8, 0#8, 1#8, 0#8, BitVec.ofNat 8 (v * 128)] ++ [0#8, 0#8, 0#8]) s with
      declared := s.oc + 1 }
  | .htBit _ => { placeSymbol .lzh8Body 0 0 s with declared := s.oc + 1 }
  | .lzh8Sym1 => { placeSymbol .lzh8Body v 0 s with declared := s.oc + 1 }
  | .lzh8Sym2 => { placeSymbol .lzh8Body 0x100 v s with declared := s.oc + 1 }
  | .rcBlkhdr32 =>
    { placeAt .rcBlock s.ip (beBytes 4 v) s with declared := s.oc + 1 }
  | .rcSym1 => { placeSymbol .rcBody v 0 s with declared := s.oc + 1 }
  | .rcSym2 => { placeSymbol .rcBody 0x100 v s with declared := s.oc + 1 }

end Sys2Proof.Machine
end

