-- ==== Sys2Proof/Machine/Turns.lean ====
section
/-! DEFINITION. The turns of the block's two agents (rule R13): one operation of the engine, or one access of the
host. -/

namespace Sys2Proof.Machine

/-- One turn of the engine: the operation its phase and the bits at the cursor select (rules R10, R21). -/
def engineTurn (s : State) : Host.Outcome State Fault Refusal :=
  match fetch s with
  | .wait => .next s
  | .run i => exec i s
  | .error e => .next (s.raise e)
  | .fault f => .fault f

/-- A host read of a register (rule R14): CTRL always reads 0, reserved bits read 0. -/
def State.readReg (s : State) : HostReg → Word32
  | .ctrl => 0
  | .tagHint => s.hint.setWidth 32
  | .inLen => s.inLen
  | .status => s.status.word
  | .outLen => s.outLen

/-- A host write of a register while BUSY = 0 (rules R14 to R17); reserved bits and read-only registers keep their
value. A write to CTRL is an operation in the context HOST. -/
def writeIdle (r : HostReg) (v : Word32) (s : State) : Host.Outcome State Fault Refusal :=
  match r with
  | .ctrl =>
    match decode .hostCtrl v.toNat [] with
    | .ok i => exec i s
    | .error _ => .next s
  | .tagHint => .next { s with hint := v.setWidth 3 }
  | .inLen => .next { s with inLen := v }
  | .status => .next s
  | .outLen => .next s

/-- A host write of one byte of IN (rules R33, R144). -/
def loadByte (a : Nat) (b : Byte) (s : State) : Host.Outcome State Fault Refusal :=
  if s.status.busy then .refused .inWriteWhileBusy
  else if s.cfg.inCapacity.any fun c => decide (c ≤ a) then .fault .noSuchInAddress
  else .next { s with inMem := Memory.write a b s.inMem }

/-- Power-on reset (rules R32, R143): a running call is abandoned. What remains is the model's own: the configuration,
the host's turns and the counters of the free values. -/
def State.powerOnReset (s : State) : State :=
  { State.reset with
    cfg := s.cfg, host := s.host, hostData := s.hostData, errors := s.errors, resets := s.resets + 1 }

/-- One turn of the host (rules R143 to R146), `s` having the turns after it. -/
def hostTurn (act : HostAct) (s : State) : Host.Outcome State Fault Refusal :=
  match act with
  | .writeReg r v => if s.status.busy then .next s else writeIdle r v s
  | .readReg r => .next { s with hostData := s.readReg r }
  | .loadIn a b => loadByte a b s
  | .readOut a =>
    if s.cfg.outCapacity.any fun c => decide (c ≤ a) then .fault .noSuchOutAddress
    else .next { s with hostData := (s.outByte a).setWidth 32 }
  | .powerOnReset => .next s.powerOnReset
  | .pass => engineTurn s
  | .pollDone =>
    if s.status.done then .next { s with hostData := s.status.word }
    else engineTurn { s with host := .pollDone :: s.host }

/-- One turn: the host's next one if it has any, else the engine's (assumption 4). -/
def turn (s : State) : Host.Outcome State Fault Refusal :=
  match s.host with
  | [] => engineTurn s
  | act :: rest => hostTurn act { s with host := rest }

end Sys2Proof.Machine
end

