-- ==== Sys2Proof/Machine/Step.lean ====
section
/-! DEFINITION. The step of the machine, and the placing of a word of the opcode table for its next step. -/

namespace Sys2Proof.Machine

/-- One step of the block: one turn of the host or of the engine (rules R10, R13). -/
def step (s : State) : Host.Outcome State Fault Refusal := turn s

/-- The state with a word of the opcode table placed where the next step reads it (assumption 3). -/
def State.withFetchWord (s : State) (nbits w : Nat) : State := placeValue (tableContext nbits w) w s

end Sys2Proof.Machine
end

