-- ==== Sys2Proof/Safety.lean ====
section
/-! DEFINITION. What the claims speak of: the stream IN holds, the readers and tables that fit their rules, the
invariant of the machine, and how a call ends. -/

namespace Sys2Proof.Machine

/-! ### What IN holds -/

/-- IN exists up to IN_LEN: a finite IN_CAPACITY is not below it (rule R33). -/
abbrev State.inCovered (s : State) : Prop := ∀ c ∈ s.cfg.inCapacity, s.inLen.toNat ≤ c

/-- Bit `q` of the bytes of IN from `lo` on, most significant first (rule R37). -/
def State.streamBit (s : State) (lo q : Nat) : Bool := (s.inByte (lo + q / 8)).getLsbD (7 - q % 8)

/-- The `n` bits from bit `q` on, in stream order. -/
def State.streamBits (s : State) (lo : Nat) : (q n : Nat) → List Bool
  | _, 0 => []
  | q, n + 1 => s.streamBit lo q :: s.streamBits lo (q + 1) n

/-- The unsigned value of bits, the first most significant (rule R37). -/
def bitsValue (bs : List Bool) : Nat := bs.foldl (fun v b => v * 2 + b.toNat) 0

/-- The `n` bits of a value, most significant first. -/
def valueBits : (n v : Nat) → List Bool
  | 0, _ => []
  | n + 1, v => v.testBit n :: valueBits n v

/-- The LE header word's address: 4 behind an ASCII tag, else 0 (rules R50, R127). -/
def State.headerAt (s : State) : Nat :=
  if s.hint.toNat ≤ 2 ∧ 5 ≤ s.inLen.toNat ∧
      (([0, 1, 2, 3] : List Nat).all fun k => 0x20 ≤ (s.inByte k).toNat && (s.inByte k).toNat ≤ 0x7E) ∧
      ((s.inByte 4).toNat = 0x10 ∨ (s.inByte 4).toNat = 0x11) then 4 else 0

/-! ### Readers and tables that fit their rules -/

/-- A reader's registers fit together and with IN (rules R23, R69, R71). -/
structure State.ReaderOk (s : State) (r : BitReader) : Prop where
  start : r.lo ≤ r.idx
  stop : r.idx ≤ r.hi
  inside : r.hi ≤ s.inLen.toNat
  bounded : r.limit ≤ (r.hi - r.lo) * 8
  delivered : r.pos ≤ r.limit
  width : r.nbits ≤ 8
  loaded : r.nbits ≠ 0 → r.lo < r.idx ∧ r.cur = s.inByte (r.idx - 1)

/-- A reader `n` bits further on, over the same bytes and with the same limit. -/
structure BitReader.Moved (r r' : BitReader) (n : Nat) : Prop where
  lo : r'.lo = r.lo
  hi : r'.hi = r.hi
  limit : r'.limit = r.limit
  pos : r'.pos = r.pos + n

/-- Every leaf of a table holds a symbol of an alphabet of `size` symbols. -/
abbrev Table.symbolsBelow (x : Table) (size : Nat) : Prop := ∀ n ∈ x.node, ∀ v ∈ n.sym, v < size

/-- Where a walk from node `k` ends when it reads these bits (rule R87): `some v` at a leaf of symbol `v` that the last
bit reaches, `none` otherwise. -/
def treeSymbol (nodes : List Node) : (k : Nat) → List Bool → Option Nat
  | _, [] => none
  | k, b :: bs =>
    match (nodes.getD k {}).child b with
    | none => none
    | some c =>
      match (nodes.getD c {}).sym with
      | some v => if bs = [] then some v else none
      | none => treeSymbol nodes c bs

/-- The last of these bits leads from an internal node to an absent child (rule R88). -/
def treeMissing (nodes : List Node) : (k : Nat) → List Bool → Bool
  | _, [] => false
  | k, b :: bs =>
    match (nodes.getD k {}).child b with
    | none => bs = []
    | some c =>
      match (nodes.getD c {}).sym with
      | some _ => false
      | none => treeMissing nodes c bs

/-- A walk that reads these bits ends on an internal node: it needs one bit more (rule R89). -/
def treeInside (nodes : List Node) : (k : Nat) → List Bool → Bool
  | _, [] => true
  | k, b :: bs =>
    match (nodes.getD k {}).child b with
    | none => false
    | some c =>
      match (nodes.getD c {}).sym with
      | some _ => false
      | none => treeInside nodes c bs

/-- The canonical code of symbol `sym` of length `l`: codes of equal length are consecutive, in symbol order (rules R11,
R81). -/
def canonicalCode (lens : List Nat) (sym l : Nat) : Nat := firstCode lens l + (lens.take sym).count l

/-- The Kraft sum of a table's lengths, in units of `2^-m` (rule R81): absent symbols do not count. -/
def kraftSum (m : Nat) (lens : List Nat) : Nat := (lens.map fun l => if l = 0 then 0 else 2 ^ (m - l)).sum

/-- One run of a table description (rule R58). -/
inductive Run
  /-- "equal lengths": `count` symbols, each given `len`. -/
  | equal (count len : Nat)
  /-- "set of lengths": each symbol given its own length. -/
  | set (lens : List Nat)
  deriving DecidableEq, Repr

/-- The lengths a run gives. -/
def Run.lens : Run → List Nat
  | .equal count len => List.replicate count len
  | .set lens => lens

/-- A run whose fields fit their widths (rule R58; RUN_COUNT_BITS and TABLE_LEN_BITS of rule R6). -/
def Run.fits (cfg : Config) : Run → Prop
  | .equal count len => 2 ≤ count ∧ count < 2 ^ cfg.runCountBits + 2 ∧ len < 2 ^ cfg.tableLenBits
  | .set lens => 1 ≤ lens.length ∧ lens.length < 2 ^ cfg.runCountBits + 1 ∧ ∀ l ∈ lens, l < 2 ^ cfg.tableLenBits

/-- The bits of a run: the tag, the count field, then the length fields (rule R58). -/
def Run.bits (cfg : Config) : Run → List Bool
  | .equal count len => true :: (valueBits cfg.runCountBits (count - 2) ++ valueBits cfg.tableLenBits len)
  | .set lens => false :: (valueBits cfg.runCountBits (lens.length - 1) ++ lens.flatMap (valueBits cfg.tableLenBits))

/-- The lengths a description gives, in symbol order (rule R58). -/
def runsLens (runs : List Run) : List Nat := runs.flatMap Run.lens

/-- The bits of a description (rule R58). -/
def runsBits (cfg : Config) (runs : List Run) : List Bool := runs.flatMap (Run.bits cfg)

/-- The bits of IN from bit `q` of address `lo` on begin with the description `runs` of a table of `size` symbols, which
ends by bit `limit` (rules R58, R75). -/
structure State.DescriptionAt (s : State) (lo q limit size : Nat) (runs : List Run) : Prop where
  fits : ∀ r ∈ runs, r.fits s.cfg
  total : (runsLens runs).length = size
  room : q + (runsBits s.cfg runs).length ≤ limit
  stream : s.streamBits lo q (runsBits s.cfg runs).length = runsBits s.cfg runs

/-- Such a description whose lengths build the tree `nodes` (rule R78). -/
structure State.Describes (s : State) (lo q limit size : Nat) (runs : List Run) (nodes : List Node) : Prop
    extends s.DescriptionAt lo q limit size runs where
  tree : buildTree s.cfg (runsLens runs) = some nodes

/-- The bits from bit `q` on begin a description of a table of `size` symbols, and bit `limit` comes before its end
(rule R75). -/
structure State.DescriptionCut (s : State) (lo q limit size : Nat) (runs : List Run) : Prop where
  fits : ∀ r ∈ runs, r.fits s.cfg
  total : (runsLens runs).length = size
  start : q ≤ limit
  short : limit < q + (runsBits s.cfg runs).length
  stream : s.streamBits lo q (limit - q) = (runsBits s.cfg runs).take (limit - q)

/-- The tag and the count field of a run (rule R58). -/
def runHead (cfg : Config) (equal : Bool) (field : Nat) : List Bool := equal :: valueBits cfg.runCountBits field

/-- Runs that give fewer than `size` lengths, then the tag and the count of a run that passes `size` (rules R76, R77). -/
structure State.RunPast (s : State) (lo q limit size : Nat) (runs : List Run) (equal : Bool) (field : Nat) : Prop where
  fits : ∀ r ∈ runs, r.fits s.cfg
  count : field < 2 ^ s.cfg.runCountBits
  below : (runsLens runs).length < size
  past : size < (runsLens runs).length + (field + if equal then 2 else 1)
  room : q + (runsBits s.cfg runs ++ runHead s.cfg equal field).length ≤ limit
  stream : s.streamBits lo q (runsBits s.cfg runs ++ runHead s.cfg equal field).length =
    runsBits s.cfg runs ++ runHead s.cfg equal field

/-- What makes HT_LOAD raise on the bits from bit `q` of address `lo` up to bit `limit`, and the error (rules R75, R76,
R77, R81, R86). -/
inductive State.LoadFails (s : State) (lo q limit size : Nat) : ErrCode → Prop
  /-- the description needs more bits. -/
  | cut (runs : List Run) (h : s.DescriptionCut lo q limit size runs) : LoadFails s lo q limit size .truncatedInput
  /-- a run would pass the last symbol. -/
  | runPast (runs : List Run) (equal : Bool) (field : Nat) (h : s.RunPast lo q limit size runs equal field) :
    LoadFails s lo q limit size .huffmanTableCorrupt
  /-- the lengths over-subscribe the code space. -/
  | oversubscribed (runs : List Run) (h : s.DescriptionAt lo q limit size runs)
    (sum : 2 ^ s.cfg.maxCodeLen < kraftSum s.cfg.maxCodeLen (runsLens runs)) :
    LoadFails s lo q limit size .huffmanTableCorrupt
  /-- the tree has more nodes than a finite ARENA_CAPACITY. -/
  | arenaFull (runs : List Run) (nodes : List Node) (capacity : Nat) (h : s.DescriptionAt lo q limit size runs)
    (tree : buildTree { s.cfg with arenaCapacity := none } (runsLens runs) = some nodes)
    (finite : s.cfg.arenaCapacity = some capacity) (full : capacity < nodes.length) :
    LoadFails s lo q limit size .huffmanTableCorrupt

/-- The table register file after a description has been loaded (rules R75, R78). -/
def loadedTable (size : Nat) (runs : List Run) (nodes : List Node) : Table where
  size := size
  len := runsLens runs
  node := nodes

/-- An LZH8 table at address `a` (rule R59): a size field of `w` words, and a sub-stream of `4 * w` bytes that begins
with a description. -/
structure State.Lzh8TableAt (s : State) (a size w : Nat) (runs : List Run) (nodes : List Node) : Prop where
  field : leValue (s.inBytes a 2) = w
  inside : a + 2 + 4 * w ≤ s.inLen.toNat
  describes : s.Describes (a + 2) 0 (32 * w) size runs nodes

/-- What makes LZH8_SETUP raise on the table at address `a`, and the error (rule R109). -/
inductive State.Lzh8TableFails (s : State) (a size : Nat) : ErrCode → Prop
  /-- the size field extends past IN_LEN. -/
  | field (h : s.inLen.toNat < a + 2) : Lzh8TableFails s a size .truncatedInput
  /-- the sub-stream extends past IN_LEN. -/
  | subStream (w : Nat) (present : a + 2 ≤ s.inLen.toNat) (field : leValue (s.inBytes a 2) = w)
    (h : s.inLen.toNat < a + 2 + 4 * w) : Lzh8TableFails s a size .truncatedInput
  /-- the sub-stream's description does not load. -/
  | load (w : Nat) (e : ErrCode) (field : leValue (s.inBytes a 2) = w) (inside : a + 2 + 4 * w ≤ s.inLen.toNat)
    (h : s.LoadFails (a + 2) 0 (32 * w) size e) : Lzh8TableFails s a size e

/-- The bit offset after a Romchu table whose size field, at offset `p`, holds `tsz` (rules R62, R119). -/
def rcTableEnd (p tsz : Nat) : Nat := p + 16 + 8 * ceil8 tsz

/-- A Romchu table at bit offset `p` of a payload of `n` bits (rules R62, R119): the size field, then a sub-stream
within the block that begins with a description and goes on with zeros. -/
structure State.RcTableAt (s : State) (payload p n size tsz : Nat) (runs : List Run) (nodes : List Node) : Prop where
  aligned : p % 8 = 0
  field : bitsValue (s.streamBits payload p 16) = tsz
  inside : rcTableEnd p tsz ≤ n
  describes : s.Describes (payload + (p + 16) / 8) 0 tsz size runs nodes
  padding : ∀ q, (runsBits s.cfg runs).length ≤ q → q < 8 * ceil8 tsz →
    s.streamBit (payload + (p + 16) / 8) q = false

/-- What makes RC_TABLE raise on the table at bit offset `p` of a payload of `n` bits, and the error (rule R119). -/
inductive State.RcTableFails (s : State) (payload p n size : Nat) : ErrCode → Prop
  /-- the size field passes the block's bits. -/
  | field (h : n < p + 16) : RcTableFails s payload p n size .truncatedInput
  /-- the sub-stream passes the block's bits. -/
  | subStream (tsz : Nat) (present : p + 16 ≤ n) (field : bitsValue (s.streamBits payload p 16) = tsz)
    (h : n < rcTableEnd p tsz) : RcTableFails s payload p n size .truncatedInput
  /-- the description does not load. -/
  | load (tsz : Nat) (e : ErrCode) (field : bitsValue (s.streamBits payload p 16) = tsz)
    (inside : rcTableEnd p tsz ≤ n) (h : s.LoadFails (payload + (p + 16) / 8) 0 tsz size e) :
    RcTableFails s payload p n size e
  /-- a 1 follows the description, in the last byte of the sub-stream or before it. -/
  | padding (tsz : Nat) (runs : List Run) (nodes : List Node) (q : Nat)
    (field : bitsValue (s.streamBits payload p 16) = tsz) (inside : rcTableEnd p tsz ≤ n)
    (h : s.Describes (payload + (p + 16) / 8) 0 tsz size runs nodes) (start : (runsBits s.cfg runs).length ≤ q)
    (stop : q < 8 * ceil8 tsz) (one : s.streamBit (payload + (p + 16) / 8) q = true) :
    RcTableFails s payload p n size .huffmanTableCorrupt

/-! ### What an operation leaves -/

/-- STATUS once the output is complete: a successful end if it is (rule R132), else as it was. -/
def Status.closedIf (st : Status) (complete : Bool) : Status :=
  if complete then { st with busy := false, done := true, err := 0, outValid := true } else st

/-- A declared length that OUT can hold (rule R129). -/
abbrev State.outFits (s : State) (len : Nat) : Prop := ∀ c ∈ s.cfg.outCapacity, len ≤ c

/-- The first phase of each format (rule R131). -/
def firstPhase (f : Format) (len : Nat) : Phase :=
  match f with
  | .lz10 | .lz11 | .n64lz => if len = 0 then .done else .lzFlag
  | .huf8 => .h8Setup
  | .lzh8 => .lzh8Setup
  | .romchu => if len = 0 then .done else .rcBlock

/-- The formats of the sliding window (rule R90). -/
def slidingWindow : Format → Bool
  | .lz10 | .lz11 | .n64lz => true
  | .huf8 | .lzh8 | .romchu => false

/-- The state Entry leaves (rules R90, R91, R131). -/
def State.entered (s : State) (f : Format) (len : Nat) : State :=
  { s with
    oc := if slidingWindow f then 0 else s.oc
    fcnt := if slidingWindow f then 0 else s.fcnt
    phase := firstPhase f len
    status := s.status.closedIf (firstPhase f len = .done) }

/-- The state DISPATCH leaves once it has chosen a format and read the length (rules R126, R128, R131). -/
def State.dispatched (s : State) (f : Format) (len next : Nat) : State :=
  State.entered
    { s with
      declared := len, outLen := BitVec.ofNat 32 len, ip := next, fmt := f.code
      status := { s.status with format := f.code } } f len

/-- OUT after a byte has been stored at the cursor: that byte and no other has changed. -/
abbrev State.Stores (s t : State) (b : Byte) : Prop := ∀ a, t.outByte a = if a = s.oc then b else s.outByte a

/-- OUT after a copy (rule R98): the last `distance` bytes repeat over the `length` bytes from the cursor on, and no
other byte has changed. -/
abbrev State.Copies (s t : State) (length distance : Nat) : Prop :=
  ∀ a, t.outByte a =
    if s.oc ≤ a ∧ a < s.oc + length then s.outByte (s.oc - distance + (a - s.oc) % distance) else s.outByte a

/-- The phase after an LZ token (rule R99). -/
def lzPhase (oc declared fcnt : Nat) : Phase :=
  if oc = declared then .done else if fcnt = 0 then .lzFlag else .lzToken

/-- The state an LZ token of `n` bytes and `length` output bytes leaves, OUT apart (rules R93 to R99). -/
def State.lzStepped (s : State) (n length : Nat) (out : Memory) : State :=
  { s with
    ip := s.ip + n, oc := s.oc + length, fcnt := s.fcnt - 1, outMem := out
    phase := lzPhase (s.oc + length) s.declared (s.fcnt - 1)
    status := s.status.closedIf (s.oc + length = s.declared) }

/-- What a back-reference token of `n` bytes does, in the order of its checks (rules R94 to R99, R135). -/
def LzRefEffect (i : Instr) (n length distance : Nat) : Prop :=
  ∀ s : State, s.inCovered →
    (s.inLen.toNat < s.ip + n → exec i s = .next (s.raise .truncatedInput)) ∧
    (s.ip + n ≤ s.inLen.toNat → s.oc < distance → exec i s = .next (s.raise .invalidBackreference)) ∧
    (s.ip + n ≤ s.inLen.toNat → distance ≤ s.oc → s.declared < s.oc + length →
      exec i s = .next (s.raise .lengthMismatch)) ∧
    (s.ip + n ≤ s.inLen.toNat → distance ≤ s.oc → s.oc + length ≤ s.declared →
      ∃ t, exec i s = .next t ∧ t = s.lzStepped n length t.outMem ∧ s.Copies t length distance)

/-- A pool bit can be delivered (rule R103). -/
abbrev State.poolReady (s : State) : Prop := s.h8.pbits ≠ 0 ∨ s.h8.pidx + 4 ≤ s.inLen.toNat

/-- The pool registers after a pool bit has been delivered (rules R38, R103): the bit is `pw[pbits]` of these. -/
def State.pooled (s : State) : Huf8Regs :=
  if s.h8.pbits = 0 then
    { s.h8 with
      pw := BitVec.ofNat 32 (match s.cfg.poolOrder with
        | .wordLeMsbFirst => leValue (s.inBytes s.h8.pidx 4)
        | .byteMsbFirst => beValue (s.inBytes s.h8.pidx 4))
      pidx := s.h8.pidx + 4
      pbits := 31 }
  else { s.h8 with pbits := s.h8.pbits - 1 }

/-- The state a Huf8 leaf leaves, OUT apart (rule R106); `h8` are the walker registers before the walk returns to the
root. -/
def State.leafStepped (s : State) (h8 : Huf8Regs) (out : Memory) : State :=
  { s with
    h8 := { h8 with cur := 0 }, oc := s.oc + 1, outMem := out
    phase := if s.oc + 1 = s.declared then .done else .h8Walk
    status := s.status.closedIf (s.oc + 1 = s.declared) }

/-- The state an LZH8 body token leaves, OUT apart (rules R110, R111, R114). -/
def State.lzh8Stepped (s : State) (r : BitReader) (length : Nat) (out : Memory) : State :=
  { s with
    br := some r, oc := s.oc + length, outMem := out
    phase := if s.oc + length = s.declared then .done else .lzh8Body
    status := s.status.closedIf (s.oc + length = s.declared) }

/-- The state a Romchu body token leaves, OUT apart (rules R120, R121, R124): the block goes on while its reader has
bits left. -/
def State.rcStepped (s : State) (r : BitReader) (length : Nat) (out : Memory) : State :=
  { s with
    br := some r, oc := s.oc + length, outMem := out
    ip := if r.pos < r.limit then s.ip else s.rc.next
    phase := if r.pos < r.limit then .rcBody else if s.oc + length = s.declared then .done else .rcBlock
    status := s.status.closedIf (¬ r.pos < r.limit ∧ s.oc + length = s.declared) }

/-- The state a raw Romchu block of `n` bytes leaves, OUT apart (rules R116, R117). -/
def State.rawStepped (s : State) (n : Nat) (out : Memory) : State :=
  { s with
    ip := s.ip + 4 + n, rc := { n := n, payload := s.ip + 4, next := s.ip + 4 + n }
    oc := s.oc + n, outMem := out
    phase := if s.oc + n = s.declared then .done else .rcBlock
    status := s.status.closedIf (s.oc + n = s.declared) }

/-- The state a compressed Romchu block leaves before its first token (rules R116, R118, R124): `e` is the bit offset
after both tables. -/
def State.compStepped (s : State) (n e : Nat) (x1 x2 : Table) : State :=
  { s with
    ip := if e < n then s.ip + 4 else s.ip + 4 + ceil8 n
    rc := { n := n, payload := s.ip + 4, next := s.ip + 4 + ceil8 n }
    t1 := x1, t2 := x2
    br := some
      { lo := s.ip + 4 + e / 8, hi := s.ip + 4 + ceil8 n, limit := n - e, idx := s.ip + 4 + e / 8, nbits := 0,
        cur := 0 }
    phase := if e < n then .rcBody else if s.oc = s.declared then .done else .rcBlock
    status := s.status.closedIf (¬ e < n ∧ s.oc = s.declared) }

/-- What a raw block of `n` bytes does when its header is present, in the order of its checks (rules R117, R135). -/
def RawBlockEffect (i : Instr) (n : Nat) (s : State) : Prop :=
  (s.declared < s.oc + n → exec i s = .next (s.raise .lengthMismatch)) ∧
  (s.oc + n ≤ s.declared → s.inLen.toNat < s.ip + 4 + n → exec i s = .next (s.raise .truncatedInput)) ∧
  (s.oc + n ≤ s.declared → s.ip + 4 + n ≤ s.inLen.toNat →
    ∃ t, exec i s = .next t ∧ t = s.rawStepped n t.outMem ∧
      ∀ a, t.outByte a = if s.oc ≤ a ∧ a < s.oc + n then s.inByte (s.ip + 4 + (a - s.oc)) else s.outByte a)

/-- The engine registers an error leaves unspecified (rule R136), taken from another state. -/
def State.withEngineOf (s t : State) : State :=
  { s with
    ip := t.ip, br := t.br, declared := t.declared, oc := t.oc, flag := t.flag, fcnt := t.fcnt, fmt := t.fmt,
    t1 := t.t1, t2 := t.t2, h8 := t.h8, rc := t.rc }

/-! ### The invariant -/

/-- A call that runs, or the idle machine: STATUS carries nothing else (rule R18). -/
abbrev Status.running (st : Status) : Prop :=
  st.busy = true ∧ st.done = false ∧ st.err = 0 ∧ st.outValid = false

/-- STATUS before any call (rule R18). -/
abbrev Status.neverRun (st : Status) : Prop :=
  st.busy = false ∧ st.done = false ∧ st.err = 0 ∧ st.outValid = false

/-- STATUS after a successful call (rule R18). -/
abbrev Status.success (st : Status) : Prop :=
  st.busy = false ∧ st.done = true ∧ st.err = 0 ∧ st.outValid = true

/-- STATUS after a failed call: ERR is one of the five codes (rules R18, R133). -/
abbrev Status.failure (st : Status) : Prop :=
  st.busy = false ∧ st.done = true ∧ 1 ≤ st.err.toNat ∧ st.err.toNat ≤ 5 ∧ st.outValid = false

/-- What holds of the engine registers while a call runs, in every phase after DISPATCH (rules R18, R24, R26). -/
structure State.CallOk (s : State) : Prop where
  length : s.outLen.toNat = s.declared
  cursor : s.oc ≤ s.declared
  format : s.status.format = s.fmt

/-- What holds in phases LZ_FLAG and LZ_TOKEN (rules R25, R90, R99). -/
structure State.LzOk (s : State) : Prop extends s.CallOk where
  open_ : s.oc < s.declared
  count : s.fcnt ≤ 8
  kind : s.fmt = Format.lz10.code ∨ s.fmt = Format.lz11.code ∨ s.fmt = Format.n64lz.code
  input : s.ip ≤ s.inLen.toNat

/-- What holds in phase H8_WALK (rules R28, R102, R103). -/
structure State.Huf8Ok (s : State) : Prop extends s.CallOk where
  open_ : s.oc < s.declared
  kind : s.fmt = Format.huf8.code
  symbols : 1 ≤ s.h8.sc ∧ s.h8.sc ≤ 256
  table : s.h8.tsize = 2 * s.h8.sc - 1
  inside : 5 + s.h8.tsize ≤ s.inLen.toNat
  node : s.h8.cur < s.h8.tsize
  word : s.h8.pbits ≤ 32
  pool : 8 ≤ s.h8.pidx ∧ (s.h8.pbits = 0 ∨ s.h8.pidx ≤ s.inLen.toNat)

/-- What holds in phase LZH8_BODY (rules R109, R114). -/
structure State.Lzh8Ok (s : State) : Prop extends s.CallOk where
  open_ : s.oc < s.declared
  kind : s.fmt = Format.lzh8.code
  reader : ∃ r, s.br = some r ∧ s.ReaderOk r
  symbols1 : s.t1.symbolsBelow s.cfg.lzh8S1
  symbols2 : s.t2.symbolsBelow s.cfg.lzh8S2

/-- What holds in phase RC_BLOCK (rules R115, R116). -/
structure State.RcBlockOk (s : State) : Prop extends s.CallOk where
  open_ : s.oc < s.declared
  kind : s.fmt = Format.romchu.code
  input : s.ip ≤ s.inLen.toNat

/-- What holds in phase RC_BODY (rules R118, R124). -/
structure State.RcBodyOk (s : State) : Prop extends s.CallOk where
  kind : s.fmt = Format.romchu.code
  reader : ∃ r, s.br = some r ∧ s.ReaderOk r ∧ r.pos < r.limit ∧ r.hi = s.rc.next
  symbols1 : s.t1.symbolsBelow s.cfg.rcS1
  symbols2 : s.t2.symbolsBelow s.cfg.rcS2

/-- What holds in each phase. -/
def State.PhaseOk (s : State) : Prop :=
  match s.phase with
  | .idle => s.status.neverRun
  | .dispatch => s.status.running ∧ s.outLen = 0 ∧ s.declared = 0 ∧ s.oc = 0 ∧ s.status.format = 0
  | .lzFlag => s.status.running ∧ s.LzOk ∧ s.fcnt = 0
  | .lzToken => s.status.running ∧ s.LzOk ∧ 1 ≤ s.fcnt
  | .h8Setup => s.status.running ∧ s.CallOk ∧ s.oc = 0 ∧ s.fmt = Format.huf8.code
  | .h8Walk => s.status.running ∧ s.Huf8Ok
  | .lzh8Setup => s.status.running ∧ s.CallOk ∧ s.oc = 0 ∧ s.fmt = Format.lzh8.code
  | .lzh8Body => s.status.running ∧ s.Lzh8Ok
  | .rcBlock => s.status.running ∧ s.RcBlockOk
  | .rcBody => s.status.running ∧ s.RcBodyOk
  | .done => s.status.failure ∨ (s.status.success ∧ s.oc = s.declared ∧ s.outLen.toNat = s.declared)

/-- The invariant of the machine: both memories are in canonical form, STATUS is one of the legal combinations of rule
R18, and each phase's registers are as the rules that enter it leave them. -/
structure State.Inv (s : State) : Prop where
  inWf : Memory.wf s.inMem
  outWf : Memory.wf s.outMem
  phaseOk : s.PhaseOk

/-! ### Runs -/

/-- The alphabets of the source: no symbol is too wide for its context (rules R6, R60, R63). -/
abbrev alphabetsOk (c : Config) : Prop := c.lzh8S1 ≤ 512 ∧ c.rcS1 ≤ 285 ∧ c.rcS2 ≤ 30

/-- An outcome's next state changed by a function; a stop is kept. -/
def mapNext (f : State → State) : Host.Outcome State Fault Refusal → Host.Outcome State Fault Refusal
  | .next t => .next (f t)
  | .fault r => .fault r
  | .refused r => .refused r

/-- A state with the contents of IN replaced. -/
def State.withIn (s : State) (m : Memory) : State := { s with inMem := m }

/-- A call has ended in one of the two ways of rule R151. -/
abbrev State.ended (s : State) : Prop :=
  (s.status.success ∧ s.oc = s.declared ∧ s.outLen.toNat = s.declared) ∨ s.status.failure

end Sys2Proof.Machine
end

