-- ==== Sys2Proof/Certificates/Slice0/Obligations.lean ====
section
/-! DEFINITION. The statements for the provers. Each docstring names the rules it formalises. A sub-operation that runs by
itself leaves its answer in the model's own register `ret` (assumption log 5); what an error leaves in the engine
registers is free (assumption log 1), so that `State.raise` says nothing of their values. -/

open Sys2Proof Sys2Proof.Machine

/-! ### The host, reset, errors and completion -/

/-- Rule R125: START, while no call runs, re-initialises every engine register and keeps TAG_HINT, IN_LEN, IN and OUT;
while a call runs it is ignored. -/
def Obligations.CmdStartBeginsACall : Prop :=
  ∀ s : State,
    (s.status.busy = false → exec .cmdStart s = .next
      { s with
        status := { busy := true, done := false, err := 0, outValid := false, format := 0 }
        outLen := 0, phase := .dispatch, ip := 0, br := none, declared := 0, oc := 0, flag := 0, fcnt := 0, fmt := 0
        t1 := { size := 0, len := [], node := [] }, t2 := { size := 0, len := [], node := [] }
        h8 := { sc := 0, tsize := 0, cur := 0, pidx := 0, pw := 0, pbits := 0 }
        rc := { n := 0, payload := 0, next := 0 } }) ∧
    (s.status.busy = true → exec .cmdStart s = .next s)

/-- Rules R14, R15 and R144, a host write. CTRL starts a call if bit 0 is 1 and no call runs, and otherwise has no
effect. TAG_HINT takes bits [2:0] and IN_LEN the whole word while no call runs; STATUS and OUT_LEN are read-only; every
write while a call runs is ignored. -/
def Obligations.HostWritesFollowTheRegisterMap : Prop :=
  ∀ (s : State) (r : HostReg) (v : Word32) (rest : List HostAct), s.host = .writeReg r v :: rest →
    (r = .ctrl → s.status.busy = false → v.getLsbD 0 = true → step s = exec .cmdStart { s with host := rest }) ∧
    (r ≠ .ctrl ∨ s.status.busy = true ∨ v.getLsbD 0 = false → step s = .next
      { s with
        host := rest
        hint := if r = .tagHint ∧ s.status.busy = false then v.extractLsb' 0 3 else s.hint
        inLen := if r = .inLen ∧ s.status.busy = false then v else s.inLen })

/-- Rules R14 and R18: what the host reads of each register, bit by bit; reserved bits and CTRL read as 0, and a read
changes nothing else. -/
def Obligations.HostReadsTheRegisterMap : Prop :=
  ∀ (s : State) (r : HostReg) (rest : List HostAct), s.host = .readReg r :: rest →
    ∃ w : Word32, step s = .next { s with host := rest, hostData := w } ∧
      (r = .ctrl → w = 0) ∧
      (r = .tagHint → w.extractLsb' 0 3 = s.hint ∧ w.extractLsb' 3 29 = 0) ∧
      (r = .inLen → w = s.inLen) ∧
      (r = .status → w.getLsbD 0 = s.status.busy ∧ w.getLsbD 1 = s.status.done ∧ w.extractLsb' 2 3 = s.status.err ∧
        w.getLsbD 5 = s.status.outValid ∧ w.extractLsb' 6 3 = s.status.format ∧ w.extractLsb' 9 23 = 0) ∧
      (r = .outLen → w = s.outLen)

/-- Rules R33 and R144 to R146: the host loads a byte of IN only while no call runs, and reads a byte of OUT without
changing anything. Two clauses are the model's choices: that one access is one turn of the queue (assumption log 4), and
that a load during a call is refused by name (assumption log 13; R144 and I25 put it outside the spec). -/
def Obligations.HostLoadsInAndReadsOut : Prop :=
  ∀ (s : State) (a : Nat) (b : Byte) (rest : List HostAct),
    (s.host = .loadIn a b :: rest → s.status.busy = false → (∀ c ∈ s.cfg.inCapacity, a < c) →
      ∃ t, step s = .next t ∧ t = { s with host := rest, inMem := t.inMem } ∧
        ∀ a', t.inByte a' = if a' = a then b else s.inByte a') ∧
    (s.host = .loadIn a b :: rest → s.status.busy = true → step s = .refused .inWriteWhileBusy) ∧
    (s.host = .readOut a :: rest → (∀ c ∈ s.cfg.outCapacity, a < c) →
      step s = .next { s with host := rest, hostData := (s.outByte a).setWidth 32 })

/-- Rules R32 and R143: power-on reset leaves the host's registers 0, phase IDLE and fmt 0, in `State.reset` and, at any
time, by the host's reset; the configuration of `State.reset` is that of rule R6. Three clauses are the model's choices:
`br = none` for R32's "unset" (assumption log 10), memories that list no byte for R32's "unspecified" (assumption logs 2
and 21), and the configuration and the host's turns kept by a later reset (assumption log 21). The registers the spec
leaves unset, which the model sets to 0 (assumption log 7), are not part of the statement. -/
def Obligations.ResetLeavesTheStatedValues : Prop :=
  (State.reset.hint = 0 ∧ State.reset.inLen = 0 ∧ State.reset.status.word = 0 ∧ State.reset.outLen = 0 ∧
      State.reset.phase = .idle ∧ State.reset.fmt = 0 ∧ State.reset.br = none ∧ State.reset.inMem = [] ∧
      State.reset.outMem = [] ∧ State.reset.cfg.maxCodeLen = 15 ∧ State.reset.cfg = Config.standard) ∧
  ∀ (s : State) (rest : List HostAct), s.host = .powerOnReset :: rest →
    ∃ t, step s = .next t ∧ t.hint = 0 ∧ t.inLen = 0 ∧ t.status.word = 0 ∧ t.outLen = 0 ∧ t.phase = .idle ∧
      t.fmt = 0 ∧ t.br = none ∧ t.inMem = [] ∧ t.outMem = [] ∧ t.host = rest ∧ t.cfg = s.cfg

/-- Rules R133 and R136: an error writes STATUS, keeps FORMAT, OUT_LEN, IN and the host's registers, and ends the call.
That OUT reads as before is the model's choice (assumption log 8): R136 leaves OUT unusable to the host. The engine registers it leaves are free (assumption log 1): the statement says nothing of their values. A call
with hint 7 raises UnsupportedFormat (rule R67). -/
def Obligations.RaiseEndsTheCallWithItsCode : Prop :=
  ∀ (e : ErrCode) (s : State),
    ∃ t, exec (.raise e) s = .next t ∧
      t = ({ s with
        status :=
          { busy := false, done := true, outValid := false, format := s.status.format
            err := match e with
              | .unsupportedFormat => 1
              | .truncatedInput => 2
              | .invalidBackreference => 3
              | .huffmanTableCorrupt => 4
              | .lengthMismatch => 5 }
        phase := .done, errors := s.errors + 1 }).withEngineOf t ∧
      (e = .unsupportedFormat → exec .illegalHint7 s = .next t) ∧
      s.raise e = t

/-- Rules R21, R132, R137 and R143: a successful completion writes STATUS and the phase and nothing else; a call that has
ended, and an idle machine, then stay as they are until the host acts. -/
def Obligations.CompletionReportsSuccessAndWaits : Prop :=
  ∀ s : State,
    exec .complete s = .next
      { s with
        phase := .done
        status := { busy := false, done := true, err := 0, outValid := true, format := s.status.format } } ∧
    (s.host = [] → s.phase = .done ∨ s.phase = .idle → step s = .next s)

/-! ### Dispatch -/

/-- Rule R127: TagPresent on the candidate bytes answers 1 exactly when the four conditions hold and changes nothing
else (its answer is kept in the model's own register: assumption log 5); on the bytes IN[0..3] it is what puts the
header at address 4. -/
def Obligations.TagPresentAnswersItsConditions : Prop :=
  ∀ (b0 b1 b2 b3 : Byte) (s : State), s.inCovered →
    exec (.tagPresent b0 b1 b2 b3) s = .next
      { s with
        ret :=
          if s.hint.toNat ≤ 2 ∧ 5 ≤ s.inLen.toNat ∧
            (∀ b ∈ [b0, b1, b2, b3], 0x20 ≤ b.toNat ∧ b.toNat ≤ 0x7E) ∧
            (s.inByte 4 = 0x10 ∨ s.inByte 4 = 0x11) then 1 else 0 } ∧
    (b0 = s.inByte 0 → b1 = s.inByte 1 → b2 = s.inByte 2 → b3 = s.inByte 3 →
      ∃ t, exec (.tagPresent b0 b1 b2 b3) s = .next t ∧ (t.ret = 1 ↔ s.headerAt = 4))

/-- Rule R129. -/
def Obligations.CapacityCheckRefusesALargerLength : Prop :=
  ∀ (len : Nat) (s : State),
    (s.outFits len → exec (.capacityCheck len) s = .next s) ∧
    (∀ c, s.cfg.outCapacity = some c → c < len → exec (.capacityCheck len) s = .next (s.raise .lengthMismatch))

/-- Rule R131: each format's first phase. An empty sliding-window or Romchu output is complete at once; HUF8 and LZH8
read on. -/
def Obligations.EntryPicksTheFirstPhase : Prop :=
  ∀ (f : Format) (len : Nat) (s : State), exec (.entry f len) s = .next (s.entered f len) ∧
    ((f = .lz10 ∨ f = .lz11 ∨ f = .n64lz) →
      (s.entered f len).phase = (if len = 0 then .done else .lzFlag) ∧ (s.entered f len).oc = 0 ∧
        (s.entered f len).fcnt = 0) ∧
    (f = .huf8 → s.entered f len = { s with phase := .h8Setup }) ∧
    (f = .lzh8 → s.entered f len = { s with phase := .lzh8Setup }) ∧
    (f = .romchu → (s.entered f len).phase = (if len = 0 then .done else .rcBlock) ∧ (s.entered f len).oc = s.oc)

/-- Rules R126, R128, R130 and R131, the rows that name a format. An LE row with no hint or its own, and an N64 row with
its own hint, records the format and the length and enters the first phase, once its header is in IN and its length fits
OUT. With another hint (for an N64 row, also with none) each raises UnsupportedFormat, and with fewer than four header
bytes each raises TruncatedInput. That a row run by itself checks its header's presence under every hint, 7 included, is
the model's choice (assumption log 17; DISPATCH checks hint 7 first). Lengths that OUT cannot hold are not part of it. -/
def Obligations.HeaderRowsDispatch : Prop :=
  ∀ (i : Instr) (f : Format) (len24 : BitVec 24) (len30 : BitVec 30) (s : State), s.inCovered →
    ((i, f) ∈ ([(.dispatchLz10 len24, .lz10), (.dispatchLz11 len24, .lz11), (.dispatchHuf8 len24, .huf8),
        (.dispatchLzh8 len24, .lzh8)] : List (Instr × Format)) →
      (s.headerAt + 4 ≤ s.inLen.toNat → (s.hint = 0 ∨ s.hint = f.code) → s.outFits len24.toNat →
        exec i s = .next (s.dispatched f len24.toNat (s.headerAt + 4))) ∧
      (s.headerAt + 4 ≤ s.inLen.toNat → s.hint ≠ 0 → s.hint ≠ f.code →
        exec i s = .next (s.raise .unsupportedFormat)) ∧
      (s.inLen.toNat < s.headerAt + 4 → exec i s = .next (s.raise .truncatedInput))) ∧
    ((i, f) ∈ ([(.dispatchN64lz len30, .n64lz), (.dispatchRomchu len30, .romchu)] : List (Instr × Format)) →
      (4 ≤ s.inLen.toNat → s.hint = f.code → s.outFits len30.toNat →
        exec i s = .next (s.dispatched f len30.toNat 4)) ∧
      (4 ≤ s.inLen.toNat → s.hint ≠ f.code → exec i s = .next (s.raise .unsupportedFormat)) ∧
      (s.inLen.toNat < 4 → exec i s = .next (s.raise .truncatedInput)))

/-- Rules R67 and R126: a header whose type names no format raises UnsupportedFormat once its four bytes are there, and
TruncatedInput before. That a row run by itself checks their presence under every hint, 7 included, is the model's choice
(assumption log 17; DISPATCH checks hint 7 first). -/
def Obligations.ReservedHeadersRaise : Prop :=
  ∀ (type : Byte) (len24 : BitVec 24) (len30 : BitVec 30) (s : State), s.inCovered →
    (s.headerAt + 4 ≤ s.inLen.toNat → exec (.illegalLeType type len24) s = .next (s.raise .unsupportedFormat)) ∧
    (s.inLen.toNat < s.headerAt + 4 → exec (.illegalLeType type len24) s = .next (s.raise .truncatedInput)) ∧
    (4 ≤ s.inLen.toNat → exec (.illegalNtype0 len30) s = .next (s.raise .unsupportedFormat) ∧
      exec (.illegalNtype3 len30) s = .next (s.raise .unsupportedFormat)) ∧
    (s.inLen.toNat < 4 → exec (.illegalNtype0 len30) s = .next (s.raise .truncatedInput) ∧
      exec (.illegalNtype3 len30) s = .next (s.raise .truncatedInput))

/-- Rules R126, R128 and R131: DISPATCH on a header it supports, LE or N64, records the format and the length and enters
the first phase. -/
def Obligations.DispatchChoosesTheFormat : Prop :=
  ∀ (s : State) (len : Nat), s.inCovered → s.outFits len →
    (∀ f type, (f, type) ∈ ([(.lz10, 0x10), (.lz11, 0x11), (.huf8, 0x28), (.lzh8, 0x40)] : List (Format × Nat)) →
      (s.hint = 0 ∨ s.hint = f.code) → s.headerAt + 4 ≤ s.inLen.toNat →
      leValue (s.inBytes s.headerAt 4) = len * 256 + type →
      exec .dispatch s = .next (s.dispatched f len (s.headerAt + 4))) ∧
    (∀ f ntype, (f, ntype) ∈ ([(.n64lz, 1), (.romchu, 2)] : List (Format × Nat)) →
      s.hint = f.code → 4 ≤ s.inLen.toNat → beValue (s.inBytes 0 4) = len * 4 + ntype →
      exec .dispatch s = .next (s.dispatched f len 4))

/-- Rules R126, R128, R129, R130 and R135: the errors of DISPATCH, in its order: hint 7, header presence, type and hint,
capacity, for LE and for N64 headers. Only the last one comes after FORMAT and OUT_LEN have been recorded. -/
def Obligations.DispatchRaisesInOrder : Prop :=
  ∀ s : State, s.inCovered →
    (s.hint = 7 → exec .dispatch s = .next (s.raise .unsupportedFormat)) ∧
    (s.hint = 3 ∨ s.hint = 6 → s.inLen.toNat < 4 → exec .dispatch s = .next (s.raise .truncatedInput)) ∧
    (s.hint ≠ 7 → s.hint ≠ 3 → s.hint ≠ 6 → s.inLen.toNat < s.headerAt + 4 →
      exec .dispatch s = .next (s.raise .truncatedInput)) ∧
    (s.hint ≠ 7 → s.hint ≠ 3 → s.hint ≠ 6 → s.headerAt + 4 ≤ s.inLen.toNat →
      (∀ f type, (f, type) ∈ ([(.lz10, 0x10), (.lz11, 0x11), (.huf8, 0x28), (.lzh8, 0x40)] : List (Format × Nat)) →
        leValue (s.inBytes s.headerAt 4) % 256 = type → s.hint ≠ 0 ∧ s.hint ≠ f.code) →
      exec .dispatch s = .next (s.raise .unsupportedFormat)) ∧
    (s.hint = 3 ∨ s.hint = 6 → 4 ≤ s.inLen.toNat →
      (∀ f ntype, (f, ntype) ∈ ([(.n64lz, 1), (.romchu, 2)] : List (Format × Nat)) →
        beValue (s.inBytes 0 4) % 4 = ntype → s.hint ≠ f.code) →
      exec .dispatch s = .next (s.raise .unsupportedFormat)) ∧
    (∀ (len c : Nat), s.cfg.outCapacity = some c → c < len →
      (∀ f type, (f, type) ∈ ([(.lz10, 0x10), (.lz11, 0x11), (.huf8, 0x28), (.lzh8, 0x40)] : List (Format × Nat)) →
        (s.hint = 0 ∨ s.hint = f.code) → s.headerAt + 4 ≤ s.inLen.toNat →
        leValue (s.inBytes s.headerAt 4) = len * 256 + type →
        exec .dispatch s = .next (State.raise
          { s with outLen := BitVec.ofNat 32 len, status := { s.status with format := f.code } } .lengthMismatch)) ∧
      (∀ f ntype, (f, ntype) ∈ ([(.n64lz, 1), (.romchu, 2)] : List (Format × Nat)) →
        s.hint = f.code → 4 ≤ s.inLen.toNat → beValue (s.inBytes 0 4) = len * 4 + ntype →
        exec .dispatch s = .next (State.raise
          { s with outLen := BitVec.ofNat 32 len, status := { s.status with format := f.code } } .lengthMismatch)))

/-! ### The BitReader -/

/-- Rule R69: the reader BR_INIT creates has delivered nothing, and it fits its rules wherever its operands do. -/
def Obligations.BrInitCreatesAReader : Prop :=
  ∀ (lo hi : Nat) (limit : Option Nat) (s : State), ∃ r : BitReader,
    exec (.brInit lo hi limit) s = .next { s with br := some r } ∧
    r = { lo := lo, hi := hi, limit := limit.getD ((hi - lo) * 8), idx := lo, nbits := 0, cur := 0 } ∧
    (lo ≤ hi → hi ≤ s.inLen.toNat → limit.getD 0 ≤ (hi - lo) * 8 → s.ReaderOk r ∧ r.pos = 0)

/-- Rules R37, R70, R71 and R72: readBits delivers the next n bits of the stream, the first the most significant, and
moves the reader n bits on; past the limit it raises TruncatedInput; of no bits it returns 0 and changes nothing, reader
or not. The result stands in the model's own register (assumption log 5). Above the 32 bits of R70, and whatever
READBITS_MAX is, the statement is the model's choice: readBits has no bound of its own (assumption log 27). -/
def Obligations.ReadBitsDeliversTheStream : Prop :=
  ∀ (s : State) (n : Nat),
    (∀ r, s.inCovered → s.br = some r → s.ReaderOk r →
      (r.pos + n ≤ r.limit → ∃ r', s.ReaderOk r' ∧ r.Moved r' n ∧
        exec (.brReadbits n) s = .next { s with br := some r', ret := bitsValue (s.streamBits r.lo r.pos n) }) ∧
      (r.limit < r.pos + n → exec (.brReadbits n) s = .next (s.raise .truncatedInput))) ∧
    exec (.brReadbits 0) s = .next { s with ret := 0 }

/-- Rule R71: NextBit, refilling lazily one byte at a time. -/
def Obligations.NextBitRefillsLazily : Prop :=
  ∀ (s : State) (r : BitReader), s.inCovered → s.br = some r → r.hi ≤ s.inLen.toNat →
    (r.limit ≤ r.pos → exec .brRefill s = .next (s.raise .truncatedInput)) ∧
    (r.pos < r.limit → r.nbits = 0 → r.hi ≤ r.idx → exec .brRefill s = .next (s.raise .truncatedInput)) ∧
    (r.pos < r.limit → r.nbits = 0 → r.idx < r.hi → exec .brRefill s = .next
      { s with
        br := some { r with cur := s.inByte r.idx, idx := r.idx + 1, nbits := 7 }
        ret := ((s.inByte r.idx).getLsbD 7).toNat }) ∧
    (r.pos < r.limit → r.nbits ≠ 0 → exec .brRefill s = .next
      { s with br := some { r with nbits := r.nbits - 1 }, ret := (r.cur.getLsbD (r.nbits - 1)).toNat })

/-- Rule R73: the padding check passes exactly when every bit from the position up to the end is 0. -/
def Obligations.CheckPadWantsZeroBits : Prop :=
  ∀ (s : State) (r : BitReader) (e : Nat), s.inCovered → s.br = some r → s.ReaderOk r → e % 8 = 0 → r.pos ≤ e →
    e ≤ (r.hi - r.lo) * 8 →
    ((∀ q, r.pos ≤ q → q < e → s.streamBit r.lo q = false) →
      exec (.brCheckpad e) s = .next { s with br := some { r with idx := r.lo + e / 8, nbits := 0 } }) ∧
    ((∃ q, r.pos ≤ q ∧ q < e ∧ s.streamBit r.lo q = true) →
      exec (.brCheckpad e) s = .next (s.raise .huffmanTableCorrupt))

/-! ### The Huffman table -/

/-- Rule R76: an "equal lengths" run gives its one length to COUNT + 2 symbols; a run past S raises
HuffmanTableCorrupt before its length is read. -/
def Obligations.RunEqualGivesOneLength : Prop :=
  ∀ (t : TableId) (i : Nat) (s : State) (r : BitReader), s.inCovered → s.br = some r → s.ReaderOk r →
    (s.table t).len.length = (s.table t).size →
    let w := s.cfg.runCountBits
    let cnt := bitsValue (s.streamBits r.lo r.pos w) + 2
    let l := bitsValue (s.streamBits r.lo (r.pos + w) s.cfg.tableLenBits)
    (r.limit < r.pos + w → exec (.htRunEqual t i) s = .next (s.raise .truncatedInput)) ∧
    (r.pos + w ≤ r.limit → (s.table t).size < i + cnt →
      exec (.htRunEqual t i) s = .next (s.raise .huffmanTableCorrupt)) ∧
    (r.pos + w ≤ r.limit → i + cnt ≤ (s.table t).size → r.limit < r.pos + w + s.cfg.tableLenBits →
      exec (.htRunEqual t i) s = .next (s.raise .truncatedInput)) ∧
    (r.pos + w + s.cfg.tableLenBits ≤ r.limit → i + cnt ≤ (s.table t).size → ∃ r' lens,
      exec (.htRunEqual t i) s =
        .next (({ s with br := some r', ret := i + cnt }).setTable t { s.table t with len := lens }) ∧
      s.ReaderOk r' ∧ r.Moved r' (w + s.cfg.tableLenBits) ∧ lens.length = (s.table t).size ∧
      ∀ j < (s.table t).size, lens.getD j 0 = if i ≤ j ∧ j < i + cnt then l else (s.table t).len.getD j 0)

/-- Rule R77: a "set of lengths" run gives COUNT + 1 symbols a length each, in order; a run past S raises
HuffmanTableCorrupt before any length is read. -/
def Obligations.RunSetGivesEachItsLength : Prop :=
  ∀ (t : TableId) (i : Nat) (s : State) (r : BitReader), s.inCovered → s.br = some r → s.ReaderOk r →
    (s.table t).len.length = (s.table t).size →
    let w := s.cfg.runCountBits
    let b := s.cfg.tableLenBits
    let cnt := bitsValue (s.streamBits r.lo r.pos w) + 1
    (r.limit < r.pos + w → exec (.htRunSet t i) s = .next (s.raise .truncatedInput)) ∧
    (r.pos + w ≤ r.limit → (s.table t).size < i + cnt →
      exec (.htRunSet t i) s = .next (s.raise .huffmanTableCorrupt)) ∧
    (r.pos + w ≤ r.limit → i + cnt ≤ (s.table t).size → r.limit < r.pos + w + cnt * b →
      exec (.htRunSet t i) s = .next (s.raise .truncatedInput)) ∧
    (r.pos + w + cnt * b ≤ r.limit → i + cnt ≤ (s.table t).size → ∃ r' lens,
      exec (.htRunSet t i) s =
        .next (({ s with br := some r', ret := i + cnt }).setTable t { s.table t with len := lens }) ∧
      s.ReaderOk r' ∧ r.Moved r' (w + cnt * b) ∧ lens.length = (s.table t).size ∧
      ∀ j < (s.table t).size, lens.getD j 0 =
        if i ≤ j ∧ j < i + cnt then bitsValue (s.streamBits r.lo (r.pos + w + (j - i) * b) b)
        else (s.table t).len.getD j 0)

/-- Rules R78, R81 and R86: with no length above MAX_CODE_LEN, HT_BUILD raises HuffmanTableCorrupt when the lengths
over-subscribe the code space. When their Kraft sum is at most 1 they have a tree: HT_BUILD puts it into the arena and
changes nothing else if ARENA_CAPACITY holds its nodes, and raises HuffmanTableCorrupt if not. -/
def Obligations.BuildRefusesExactlyOversubscribed : Prop :=
  ∀ (t : TableId) (s : State), (∀ l ∈ (s.table t).len, l ≤ s.cfg.maxCodeLen) →
    (kraftSum s.cfg.maxCodeLen (s.table t).len ≤ 2 ^ s.cfg.maxCodeLen →
      ∃ nodes, buildTree { s.cfg with arenaCapacity := none } (s.table t).len = some nodes ∧
        ((∀ c ∈ s.cfg.arenaCapacity, nodes.length ≤ c) → buildTree s.cfg (s.table t).len = some nodes ∧
          exec (.htBuild t) s = .next (s.setTable t { s.table t with node := nodes })) ∧
        (∀ c, s.cfg.arenaCapacity = some c → c < nodes.length →
          exec (.htBuild t) s = .next (s.raise .huffmanTableCorrupt))) ∧
    (2 ^ s.cfg.maxCodeLen < kraftSum s.cfg.maxCodeLen (s.table t).len →
      exec (.htBuild t) s = .next (s.raise .huffmanTableCorrupt))

/-- Rules R80, R81, R83, R84 and R87: in the tree a build makes, a bit string leads from the root to the leaf of symbol v
exactly when it is v's canonical code, most significant bit first; symbols of length 0 have none. -/
def Obligations.TreeDecodesTheCanonicalCode : Prop :=
  ∀ (cfg : Config) (lens : List Nat) (nodes : List Node), (∀ l ∈ lens, l ≤ cfg.maxCodeLen) →
    buildTree cfg lens = some nodes →
    ∀ (bits : List Bool) (v : Nat), treeSymbol nodes 0 bits = some v ↔
      ∃ l, lens[v]? = some l ∧ 0 < l ∧ bits = valueBits l (canonicalCode lens v l)

/-- Rules R58, R75 to R78, R81 and R86: HT_LOAD reads exactly the description's bits and leaves its lengths and their tree
in the table, and nothing else but the reader. A description cut by the limit raises TruncatedInput; a run past S,
over-subscribed lengths and a full arena raise HuffmanTableCorrupt. -/
def Obligations.LoadReadsTheDescription : Prop :=
  ∀ (t : TableId) (size : Nat) (s : State) (r : BitReader), s.inCovered → s.br = some r → s.ReaderOk r →
    (∀ e, s.LoadFails r.lo r.pos r.limit size e → exec (.htLoad t size) s = .next (s.raise e)) ∧
    (∀ runs nodes, s.Describes r.lo r.pos r.limit size runs nodes →
      ∃ r', exec (.htLoad t size) s =
          .next (({ s with br := some r' }).setTable t { size := size, len := runsLens runs, node := nodes }) ∧
        s.ReaderOk r' ∧ r.Moved r' (runsBits s.cfg runs).length)

/-- Rules R87, R88 and R89: decodeSymbol follows the stream's bits from the root to a leaf and delivers its symbol; an
absent child raises HuffmanTableCorrupt, and a walk that needs a bit past the limit raises TruncatedInput. -/
def Obligations.DecodeSymbolWalksTheTree : Prop :=
  ∀ (t : TableId) (s : State) (r : BitReader) (n : Nat), s.inCovered → s.br = some r → s.ReaderOk r →
    r.pos + n ≤ r.limit →
    (∀ v, treeSymbol (s.table t).node 0 (s.streamBits r.lo r.pos n) = some v → ∃ r', s.ReaderOk r' ∧ r.Moved r' n ∧
      exec (.htDecode t) s = .next { s with br := some r', ret := v }) ∧
    (treeMissing (s.table t).node 0 (s.streamBits r.lo r.pos n) = true →
      exec (.htDecode t) s = .next (s.raise .huffmanTableCorrupt)) ∧
    (r.pos + n = r.limit → treeInside (s.table t).node 0 (s.streamBits r.lo r.pos n) = true →
      exec (.htDecode t) s = .next (s.raise .truncatedInput))

/-! ### The sliding window -/

/-- Rule R92, for the operation and for the step that selects it. -/
def Obligations.FlagByteIsTaken : Prop :=
  ∀ (s : State) (b : Byte), s.inCovered →
    (s.ip < s.inLen.toNat →
      exec (.lzFlags b) s = .next { s with flag := b, fcnt := 8, ip := s.ip + 1, phase := .lzToken }) ∧
    (s.inLen.toNat ≤ s.ip → exec (.lzFlags b) s = .next (s.raise .truncatedInput)) ∧
    (s.host = [] → s.phase = .lzFlag → s.ip < s.inLen.toNat →
      step s = .next { s with flag := s.inByte s.ip, fcnt := 8, ip := s.ip + 1, phase := .lzToken }) ∧
    (s.host = [] → s.phase = .lzFlag → s.inLen.toNat ≤ s.ip → step s = .next (s.raise .truncatedInput))

/-- Rule R93, for the operation and for the step that selects it: the literal at the cursor is stored and no other byte
of OUT changes. -/
def Obligations.LiteralIsStored : Prop :=
  ∀ (s : State) (b : Byte), s.inCovered →
    (s.ip < s.inLen.toNat → s.oc < s.declared →
      ∃ t, exec (.lzLit b) s = .next t ∧ t = s.lzStepped 1 1 t.outMem ∧ s.Stores t b) ∧
    (s.inLen.toNat ≤ s.ip → exec (.lzLit b) s = .next (s.raise .truncatedInput)) ∧
    (s.host = [] → s.phase = .lzToken → s.flag.getLsbD (s.fcnt - 1) = false → s.ip < s.inLen.toNat →
      s.oc < s.declared →
      ∃ t, step s = .next t ∧ t = s.lzStepped 1 1 t.outMem ∧ s.Stores t (s.inByte s.ip))

/-- Rule R98: Copy extends OUT by the repeated last `distance` bytes and changes nothing else; the distance is checked
before the length, and nothing is copied if a check fails. -/
def Obligations.CopyRepeatsTheWindow : Prop :=
  ∀ (length distance : Nat) (s : State),
    (distance < 1 ∨ s.oc < distance → exec (.copy length distance) s = .next (s.raise .invalidBackreference)) ∧
    (1 ≤ distance → distance ≤ s.oc → s.declared < s.oc + length →
      exec (.copy length distance) s = .next (s.raise .lengthMismatch)) ∧
    (1 ≤ distance → distance ≤ s.oc → s.oc + length ≤ s.declared →
      ∃ t, exec (.copy length distance) s = .next t ∧ t = { s with oc := s.oc + length, outMem := t.outMem } ∧
        s.Copies t length distance)

/-- Rules R94 to R97 and R66: the four back-reference tokens, each with its byte count, its length and its distance; the
token's bytes are read before its distance is checked, and the distance before the length. -/
def Obligations.BackReferencesCopy : Prop :=
  (∀ (lm3 : BitVec 4) (dm1 : BitVec 12), LzRefEffect (.lz10Ref lm3 dm1) 2 (lm3.toNat + 3) (dm1.toNat + 1)) ∧
    (∀ (len1 : BitVec 4) (dm1 : BitVec 12),
      LzRefEffect (.lz11RefShort len1 dm1) 2 (len1.toNat + 1) (dm1.toNat + 1)) ∧
    (∀ (len17 : BitVec 8) (dm1 : BitVec 12),
      LzRefEffect (.lz11RefLong len17 dm1) 3 (len17.toNat + 17) (dm1.toNat + 1)) ∧
    (∀ (len273 : BitVec 16) (dm1 : BitVec 12),
      LzRefEffect (.lz11RefMed len273 dm1) 4 (len273.toNat + 273) (dm1.toNat + 1))

/-- Rule R99: the count goes down, and decoding stops as soon as the output is complete, even inside a flag byte. -/
def Obligations.LzNextChoosesThePhase : Prop :=
  ∀ s : State,
    (s.oc = s.declared → exec .lzNext s = .next
      { s with
        fcnt := s.fcnt - 1, phase := .done
        status := { busy := false, done := true, err := 0, outValid := true, format := s.status.format } }) ∧
    (s.oc ≠ s.declared → s.fcnt - 1 = 0 → exec .lzNext s = .next { s with fcnt := 0, phase := .lzFlag }) ∧
    (s.oc ≠ s.declared → s.fcnt - 1 ≠ 0 → exec .lzNext s = .next { s with fcnt := s.fcnt - 1, phase := .lzToken })

/-! ### HUF8 -/

/-- Rule R102: H8_SETUP reads the count, completes an empty output at once, checks that the table is in IN and opens the
pool at the next multiple of 4. -/
def Obligations.Huf8SetupOpensThePool : Prop :=
  ∀ (s : State) (sc tsize : Nat), s.inCovered → sc = (s.inByte 4).toNat + 1 → tsize = 2 * sc - 1 →
    (s.inLen.toNat < 5 → exec .h8Setup s = .next (s.raise .truncatedInput)) ∧
    (5 ≤ s.inLen.toNat → s.declared = 0 → exec .h8Setup s = .next
      { s with
        h8 := { s.h8 with sc := sc, tsize := tsize }, phase := .done
        status := { busy := false, done := true, err := 0, outValid := true, format := s.status.format } }) ∧
    (5 ≤ s.inLen.toNat → s.declared ≠ 0 → s.inLen.toNat < 5 + tsize →
      exec .h8Setup s = .next (s.raise .truncatedInput)) ∧
    (s.declared ≠ 0 → 5 + tsize ≤ s.inLen.toNat → exec .h8Setup s = .next
      { s with
        h8 := { sc := sc, tsize := tsize, cur := 0, pidx := (4 + 2 * sc + 3) / 4 * 4, pw := 0, pbits := 0 }
        phase := .h8Walk })

/-- Rules R38 and R103: PoolBit takes bit 31 of a word first and bit 0 last; a fresh little-endian word gives bit 7 of its
last byte first; a partial final word supplies no bits. Under BYTE_MSB_FIRST the big-endian word and the partial word
that supplies no bits are the model's reading (assumption log 9). -/
def Obligations.PoolBitsComeFromWholeWords : Prop :=
  ∀ s : State, s.inCovered →
    (s.poolReady → exec .h8Poolbit s = .next
      { s with h8 := s.pooled, ret := (s.pooled.pw.getLsbD s.pooled.pbits).toNat }) ∧
    (s.h8.pbits = 0 → s.h8.pidx + 4 ≤ s.inLen.toNat → s.cfg.poolOrder = .wordLeMsbFirst →
      ∃ t, exec .h8Poolbit s = .next t ∧ t.ret = ((s.inByte (s.h8.pidx + 3)).getLsbD 7).toNat) ∧
    (¬ s.poolReady → exec .h8Poolbit s = .next (s.raise .truncatedInput))

/-- Rules R104 to R107: an edge takes one pool bit and leads to the child its node byte and its own bit give: outside the
table it raises HuffmanTableCorrupt, to a node it moves the walk, to a leaf it stores the leaf's byte and returns to the
root; without a pool bit it raises TruncatedInput. -/
def Obligations.Huf8EdgesLeadToTheChild : Prop :=
  ∀ (b : Bool) (s : State) (i : Instr) (node : Byte) (child : Nat), s.inCovered → s.h8.cur < s.h8.tsize →
    5 + s.h8.tsize ≤ s.inLen.toNat → i = (if b then .h8Bit1 else .h8Bit0) → node = s.inByte (5 + s.h8.cur) →
    child = (s.h8.cur + 1) / 2 * 2 + 1 + (node.toNat % 64) * 2 + b.toNat →
    (¬ s.poolReady → exec i s = .next (s.raise .truncatedInput)) ∧
    (s.poolReady → s.h8.tsize ≤ child → exec i s = .next (s.raise .huffmanTableCorrupt)) ∧
    (s.poolReady → child < s.h8.tsize → node.getLsbD (if b then 6 else 7) = false →
      exec i s = .next { s with h8 := { s.pooled with cur := child } }) ∧
    (s.poolReady → child < s.h8.tsize → node.getLsbD (if b then 6 else 7) = true → s.oc < s.declared →
      ∃ t, exec i s = .next t ∧ t = s.leafStepped s.pooled t.outMem ∧ s.Stores t (s.inByte (5 + child)))

/-- Rules R106 to R108. EmitLeaf stores the data byte and returns to the root. CheckChild, on a node byte's offset and the
edge the last pool bit chose (assumption log 5): a child outside the table raises HuffmanTableCorrupt and any other
passes, since the loop check can never fire. -/
def Obligations.LeavesAndChildChecks : Prop :=
  (∀ (child : Nat) (s : State), s.inCovered → 5 + child < s.inLen.toNat → s.oc < s.declared →
    ∃ t, exec (.emitLeaf child) s = .next t ∧ t = s.leafStepped s.h8 t.outMem ∧
      s.Stores t (s.inByte (5 + child))) ∧
  (∀ (l0 l1 : BitVec 1) (off : BitVec 6) (s : State) (child : Nat),
    child = (s.h8.cur + 1) / 2 * 2 + 1 + off.toNat * 2 + (s.h8.pw.getLsbD s.h8.pbits).toNat →
    (s.h8.tsize ≤ child → exec (.checkChild l0 l1 off) s = .next (s.raise .huffmanTableCorrupt)) ∧
    (child < s.h8.tsize → exec (.checkChild l0 l1 off) s = .next s) ∧ s.h8.cur < child)

/-! ### LZH8 -/

/-- Rules R51 and R109, a zero 24-bit length: an empty second length completes the call; a missing one raises
TruncatedInput; one above OUT_CAPACITY raises LengthMismatch after OUT_LEN has been rewritten; the mode ERROR raises
UnsupportedFormat. -/
def Obligations.Lzh8SecondLength : Prop :=
  ∀ s : State, s.inCovered → s.declared = 0 →
    (s.cfg.extLenMode = .error → exec .lzh8Setup s = .next (s.raise .unsupportedFormat)) ∧
    (s.cfg.extLenMode = .read → s.inLen.toNat < 8 → exec .lzh8Setup s = .next (s.raise .truncatedInput)) ∧
    (s.cfg.extLenMode = .read → 8 ≤ s.inLen.toNat → leValue (s.inBytes 4 4) = 0 → exec .lzh8Setup s = .next
      { s with
        outLen := 0, phase := .done
        status := { busy := false, done := true, err := 0, outValid := true, format := s.status.format } }) ∧
    (s.cfg.extLenMode = .read → 8 ≤ s.inLen.toNat → ¬ s.outFits (leValue (s.inBytes 4 4)) →
      exec .lzh8Setup s = .next
        (State.raise { s with outLen := BitVec.ofNat 32 (leValue (s.inBytes 4 4)) } .lengthMismatch))

/-- Rules R59 and R109: with a length in the header, or in the second field, LZH8_SETUP loads both tables from their
sub-streams, ignores what follows a description, and opens the body reader behind them. A size field or a sub-stream past
IN_LEN, or a description that does not load, raises its error, with OUT_LEN already rewritten by a second length. -/
def Obligations.Lzh8SetupLoadsBothTables : Prop :=
  ∀ (s : State) (a len : Nat), s.inCovered → len ≠ 0 →
    (s.declared = len ∧ a = 4 ∨
      s.declared = 0 ∧ s.cfg.extLenMode = .read ∧ 8 ≤ s.inLen.toNat ∧ leValue (s.inBytes 4 4) = len ∧
        s.outFits len ∧ a = 8) →
    let outLen := if a = 8 then BitVec.ofNat 32 len else s.outLen
    (∀ e, s.Lzh8TableFails a s.cfg.lzh8S1 e → exec .lzh8Setup s = .next (State.raise { s with outLen := outLen } e)) ∧
    (∀ w1 runs1 nodes1, s.Lzh8TableAt a s.cfg.lzh8S1 w1 runs1 nodes1 →
      (∀ e, s.Lzh8TableFails (a + 2 + 4 * w1) s.cfg.lzh8S2 e →
        exec .lzh8Setup s = .next (State.raise { s with outLen := outLen } e)) ∧
      (∀ w2 runs2 nodes2, s.Lzh8TableAt (a + 2 + 4 * w1) s.cfg.lzh8S2 w2 runs2 nodes2 →
        exec .lzh8Setup s = .next
          { s with
            declared := len
            outLen := outLen
            t1 := loadedTable s.cfg.lzh8S1 runs1 nodes1
            t2 := loadedTable s.cfg.lzh8S2 runs2 nodes2
            br := some
              { lo := a + 2 + 4 * w1 + 2 + 4 * w2, hi := s.inLen.toNat
                limit := (s.inLen.toNat - (a + 2 + 4 * w1 + 2 + 4 * w2)) * 8
                idx := a + 2 + 4 * w1 + 2 + 4 * w2, nbits := 0, cur := 0 }
            phase := .lzh8Body }))

/-- Rules R88, R89 and R110: a literal takes its code's bits and stores its byte; a walk into an absent child raises
HuffmanTableCorrupt, and a code cut by the end of the body TruncatedInput. -/
def Obligations.Lzh8LiteralIsStored : Prop :=
  ∀ (b : Byte) (s : State) (r : BitReader) (n : Nat), s.inCovered → s.br = some r → s.ReaderOk r →
    r.pos + n ≤ r.limit →
    (treeMissing s.t1.node 0 (s.streamBits r.lo r.pos n) = true →
      exec (.lzh8Lit b) s = .next (s.raise .huffmanTableCorrupt)) ∧
    (r.pos + n = r.limit → treeInside s.t1.node 0 (s.streamBits r.lo r.pos n) = true →
      exec (.lzh8Lit b) s = .next (s.raise .truncatedInput)) ∧
    (∀ v, treeSymbol s.t1.node 0 (s.streamBits r.lo r.pos n) = some v → s.oc < s.declared →
      ∃ r' t, exec (.lzh8Lit b) s = .next t ∧ t = s.lzh8Stepped r' 1 t.outMem ∧ s.Stores t b ∧ s.ReaderOk r' ∧
        r.Moved r' n)

/-- Rules R111 to R113: a back-reference takes the length's code, the displacement-length's code and its raw bits, in that
order, and copies from `d + 1` bytes back, where `d` is 0 or a leading 1 before the raw bits. In either walk an absent
child raises HuffmanTableCorrupt, and a bit missing from any of the three reads TruncatedInput, before the copy's checks.
With an alphabet above the source's, a displacement-length of 32 or more reads like the others (assumption log 28). -/
def Obligations.Lzh8ReferenceCopies : Prop :=
  ∀ (len3 : BitVec 8) (s : State) (r : BitReader) (n1 : Nat), s.inCovered → s.br = some r → s.ReaderOk r →
    r.pos + n1 ≤ r.limit →
    (treeMissing s.t1.node 0 (s.streamBits r.lo r.pos n1) = true →
      exec (.lzh8Ref len3) s = .next (s.raise .huffmanTableCorrupt)) ∧
    (r.pos + n1 = r.limit → treeInside s.t1.node 0 (s.streamBits r.lo r.pos n1) = true →
      exec (.lzh8Ref len3) s = .next (s.raise .truncatedInput)) ∧
    (∀ v n2, treeSymbol s.t1.node 0 (s.streamBits r.lo r.pos n1) = some v → r.pos + n1 + n2 ≤ r.limit →
      (treeMissing s.t2.node 0 (s.streamBits r.lo (r.pos + n1) n2) = true →
        exec (.lzh8Ref len3) s = .next (s.raise .huffmanTableCorrupt)) ∧
      (r.pos + n1 + n2 = r.limit → treeInside s.t2.node 0 (s.streamBits r.lo (r.pos + n1) n2) = true →
        exec (.lzh8Ref len3) s = .next (s.raise .truncatedInput)) ∧
      (∀ displen d, treeSymbol s.t2.node 0 (s.streamBits r.lo (r.pos + n1) n2) = some displen →
        d = (if displen = 0 then 0
          else 2 ^ (displen - 1) + bitsValue (s.streamBits r.lo (r.pos + n1 + n2) (displen - 1))) →
        (r.limit < r.pos + n1 + n2 + (displen - 1) → exec (.lzh8Ref len3) s = .next (s.raise .truncatedInput)) ∧
        (r.pos + n1 + n2 + (displen - 1) ≤ r.limit → s.oc < d + 1 →
          exec (.lzh8Ref len3) s = .next (s.raise .invalidBackreference)) ∧
        (r.pos + n1 + n2 + (displen - 1) ≤ r.limit → d + 1 ≤ s.oc → s.declared < s.oc + (len3.toNat + 3) →
          exec (.lzh8Ref len3) s = .next (s.raise .lengthMismatch)) ∧
        (r.pos + n1 + n2 + (displen - 1) ≤ r.limit → d + 1 ≤ s.oc → s.oc + (len3.toNat + 3) ≤ s.declared →
          ∃ r' t, exec (.lzh8Ref len3) s = .next t ∧ t = s.lzh8Stepped r' (len3.toNat + 3) t.outMem ∧
            s.Copies t (len3.toNat + 3) (d + 1) ∧ s.ReaderOk r' ∧ r.Moved r' (n1 + n2 + (displen - 1)))))

/-- Rules R112 and R113: displen 0 gives the displacement 0 and reads nothing; displen k gives a leading 1 before k - 1
raw bits, so a displacement from `2^(k-1)` up to below `2^k`; with fewer bits left it raises TruncatedInput. -/
def Obligations.DisplacementsHaveALeadingOne : Prop :=
  ∀ (displen : BitVec 5) (s : State),
    exec .lzh8Disp0 s = .next { s with ret := 0 } ∧
    (∀ r, s.inCovered → s.br = some r → s.ReaderOk r → r.limit < r.pos + (displen.toNat - 1) →
      exec (.lzh8Dispn displen) s = .next (s.raise .truncatedInput)) ∧
    (1 ≤ displen.toNat → ∀ r, s.inCovered → s.br = some r → s.ReaderOk r →
      r.pos + (displen.toNat - 1) ≤ r.limit →
      ∃ r' d, exec (.lzh8Dispn displen) s = .next { s with br := some r', ret := d } ∧ s.ReaderOk r' ∧
        r.Moved r' (displen.toNat - 1) ∧
        d = 2 ^ (displen.toNat - 1) + bitsValue (s.streamBits r.lo r.pos (displen.toNat - 1)) ∧
        d < 2 ^ displen.toNat)

/-! ### ROMCHU -/

/-- Rules R61, R116 and R117: a raw block, run by its row or by RC_BLOCK on its header, copies its payload and moves the
cursor behind it; LengthMismatch is checked before TruncatedInput. -/
def Obligations.RawBlockIsCopied : Prop :=
  ∀ (n : BitVec 31) (s : State), s.inCovered → s.ip + 4 ≤ s.inLen.toNat →
    RawBlockEffect (.rcBlkRaw n) n.toNat s ∧
    (beValue (s.inBytes s.ip 4) = n.toNat → RawBlockEffect .rcBlock n.toNat s)

/-- Rule R116: RC_BLOCK runs the row the header's bit 31 selects; input that ends on the block boundary raises
LengthMismatch, and inside a header TruncatedInput. -/
def Obligations.BlockHeaderSelectsItsRow : Prop :=
  ∀ s : State, s.inCovered →
    (s.ip = s.inLen.toNat → exec .rcBlock s = .next (s.raise .lengthMismatch)) ∧
    (s.ip < s.inLen.toNat → s.inLen.toNat < s.ip + 4 → exec .rcBlock s = .next (s.raise .truncatedInput)) ∧
    (∀ n : BitVec 31, s.ip + 4 ≤ s.inLen.toNat → beValue (s.inBytes s.ip 4) = n.toNat →
      exec .rcBlock s = exec (.rcBlkRaw n) s) ∧
    (∀ n : BitVec 31, s.ip + 4 ≤ s.inLen.toNat → beValue (s.inBytes s.ip 4) = 0x80000000 + n.toNat →
      exec .rcBlock s = exec (.rcBlkComp n) s)

/-- Rules R62 and R119: RC_TABLE loads the table at its payload offset, checks its padding, and returns the offset after
it. A size field or a sub-stream past the block's bits, or a description that needs more bits than its size field gives,
raises TruncatedInput; a run past S, over-subscribed lengths, a full arena, or a 1 after the description, up to the end
of its last byte, raises HuffmanTableCorrupt. -/
def Obligations.BlockTableIsLoaded : Prop :=
  ∀ (t : TableId) (size p : Nat) (s : State), s.inCovered → p % 8 = 0 →
    s.rc.next = s.rc.payload + ceil8 s.rc.n → s.rc.next ≤ s.inLen.toNat →
    (∀ e, s.RcTableFails s.rc.payload p s.rc.n size e → exec (.rcTable t size p) s = .next (s.raise e)) ∧
    (∀ tsz runs nodes, s.RcTableAt s.rc.payload p s.rc.n size tsz runs nodes →
      ∃ r', exec (.rcTable t size p) s = .next
          (({ s with br := some r', ret := rcTableEnd p tsz }).setTable t (loadedTable size runs nodes)) ∧
        s.ReaderOk { r' with limit := 8 * ceil8 tsz } ∧ r'.lo = s.rc.payload + (p + 16) / 8 ∧
        r'.pos = 8 * ceil8 tsz)

/-- Rules R62, R116, R118 and R124: a compressed block, run by its row or by RC_BLOCK on its header, loads both tables and
opens the body reader over the rest of its bits; an empty body ends the block at once. A payload past IN_LEN raises
TruncatedInput, and a table that fails raises its error. -/
def Obligations.CompressedBlockOpensItsBody : Prop :=
  ∀ (n : BitVec 31) (s : State) (i : Instr), s.inCovered → s.ip + 4 ≤ s.inLen.toNat →
    (i = .rcBlkComp n ∨ i = .rcBlock ∧ beValue (s.inBytes s.ip 4) = 0x80000000 + n.toNat) →
    (s.inLen.toNat < s.ip + 4 + ceil8 n.toNat → exec i s = .next (s.raise .truncatedInput)) ∧
    (s.ip + 4 + ceil8 n.toNat ≤ s.inLen.toNat →
      (∀ e, s.RcTableFails (s.ip + 4) 0 n.toNat s.cfg.rcS1 e → exec i s = .next (s.raise e)) ∧
      (∀ tsz1 runs1 nodes1, s.RcTableAt (s.ip + 4) 0 n.toNat s.cfg.rcS1 tsz1 runs1 nodes1 →
        (∀ e, s.RcTableFails (s.ip + 4) (rcTableEnd 0 tsz1) n.toNat s.cfg.rcS2 e → exec i s = .next (s.raise e)) ∧
        (∀ tsz2 runs2 nodes2,
          s.RcTableAt (s.ip + 4) (rcTableEnd 0 tsz1) n.toNat s.cfg.rcS2 tsz2 runs2 nodes2 →
          exec i s = .next (s.compStepped n.toNat (rcTableEnd (rcTableEnd 0 tsz1) tsz2)
            (loadedTable s.cfg.rcS1 runs1 nodes1) (loadedTable s.cfg.rcS2 runs2 nodes2)))))

/-- Rules R88, R89, R120 and R135: a literal takes its code's bits before the output is checked, so that a walk into an
absent child raises HuffmanTableCorrupt and a cut code TruncatedInput also where the output is complete; it stores its
byte, and the block ends with its last bit. -/
def Obligations.RcLiteralIsStored : Prop :=
  ∀ (b : Byte) (s : State) (r : BitReader) (n : Nat), s.inCovered → s.br = some r → s.ReaderOk r →
    r.pos + n ≤ r.limit →
    (treeMissing s.t1.node 0 (s.streamBits r.lo r.pos n) = true →
      exec (.rcLit b) s = .next (s.raise .huffmanTableCorrupt)) ∧
    (r.pos + n = r.limit → treeInside s.t1.node 0 (s.streamBits r.lo r.pos n) = true →
      exec (.rcLit b) s = .next (s.raise .truncatedInput)) ∧
    (∀ v, treeSymbol s.t1.node 0 (s.streamBits r.lo r.pos n) = some v →
      (s.oc = s.declared → exec (.rcLit b) s = .next (s.raise .lengthMismatch)) ∧
      (s.oc < s.declared → ∃ r' t, exec (.rcLit b) s = .next t ∧ t = s.rcStepped r' 1 t.outMem ∧ s.Stores t b ∧
        s.ReaderOk r' ∧ r.Moved r' n))

/-- Rules R63 to R65 and R121: a back-reference takes both symbols, then the length's extra bits, then the distance's, and
copies; the distance is checked before the length. In either walk an absent child raises HuffmanTableCorrupt, and a bit
missing from any of the four reads TruncatedInput, before the copy's checks. A T2 symbol of 30 or more, which R63 says
cannot be decoded, stops by name (assumption log 12). -/
def Obligations.RcReferenceCopies : Prop :=
  ∀ (cls : BitVec 8) (s : State) (r : BitReader) (n1 lb le : Nat), s.inCovered → s.br = some r → s.ReaderOk r →
    lengthClasses[cls.toNat]? = some (lb, le) → r.pos + n1 ≤ r.limit →
    (treeMissing s.t1.node 0 (s.streamBits r.lo r.pos n1) = true →
      exec (.rcRef cls) s = .next (s.raise .huffmanTableCorrupt)) ∧
    (r.pos + n1 = r.limit → treeInside s.t1.node 0 (s.streamBits r.lo r.pos n1) = true →
      exec (.rcRef cls) s = .next (s.raise .truncatedInput)) ∧
    (∀ v n2, treeSymbol s.t1.node 0 (s.streamBits r.lo r.pos n1) = some v → r.pos + n1 + n2 ≤ r.limit →
      (treeMissing s.t2.node 0 (s.streamBits r.lo (r.pos + n1) n2) = true →
        exec (.rcRef cls) s = .next (s.raise .huffmanTableCorrupt)) ∧
      (r.pos + n1 + n2 = r.limit → treeInside s.t2.node 0 (s.streamBits r.lo (r.pos + n1) n2) = true →
        exec (.rcRef cls) s = .next (s.raise .truncatedInput)) ∧
      (∀ dc, treeSymbol s.t2.node 0 (s.streamBits r.lo (r.pos + n1) n2) = some dc → 30 ≤ dc →
        r.pos + n1 + n2 + le ≤ r.limit → exec (.rcRef cls) s = .fault .reservedRomchuSymbol2) ∧
      (∀ dc db de length distance, treeSymbol s.t2.node 0 (s.streamBits r.lo (r.pos + n1) n2) = some dc →
        distanceClasses[dc]? = some (db, de) →
        length = lb + bitsValue (s.streamBits r.lo (r.pos + n1 + n2) le) →
        distance = db + bitsValue (s.streamBits r.lo (r.pos + n1 + n2 + le) de) →
        (r.limit < r.pos + n1 + n2 + le + de → exec (.rcRef cls) s = .next (s.raise .truncatedInput)) ∧
        (r.pos + n1 + n2 + le + de ≤ r.limit → s.oc < distance →
          exec (.rcRef cls) s = .next (s.raise .invalidBackreference)) ∧
        (r.pos + n1 + n2 + le + de ≤ r.limit → distance ≤ s.oc → s.declared < s.oc + length →
          exec (.rcRef cls) s = .next (s.raise .lengthMismatch)) ∧
        (r.pos + n1 + n2 + le + de ≤ r.limit → distance ≤ s.oc → s.oc + length ≤ s.declared →
          ∃ r' t, exec (.rcRef cls) s = .next t ∧ t = s.rcStepped r' length t.outMem ∧ s.Copies t length distance ∧
            s.ReaderOk r' ∧ r.Moved r' (n1 + n2 + le + de))))

/-- Rules R64, R65, R122 and R123: a class answers its base plus its extra bits, which the reader moves past; without
them it raises TruncatedInput. The bases and the counts of extra bits are the 29 and 30 rows that R64 and R65 print, which
the spec takes from general knowledge (assumption log 26). -/
def Obligations.ClassesAddTheirExtraBits : Prop :=
  lengthClasses.map Prod.fst = [3, 4, 5, 6, 7, 8, 9, 10, 11, 13, 15, 17, 19, 23, 27, 31, 35, 43, 51, 59, 67, 83, 99, 115,
    131, 163, 195, 227, 258] ∧
  lengthClasses.map Prod.snd = [0, 0, 0, 0, 0, 0, 0, 0, 1, 1, 1, 1, 2, 2, 2, 2, 3, 3, 3, 3, 4, 4, 4, 4, 5, 5, 5, 5, 0] ∧
  distanceClasses.map Prod.fst = [1, 2, 3, 4, 5, 7, 9, 13, 17, 25, 33, 49, 65, 97, 129, 193, 257, 385, 513, 769, 1025,
    1537, 2049, 3073, 4097, 6145, 8193, 12289, 16385, 24577] ∧
  distanceClasses.map Prod.snd = [0, 0, 0, 0, 1, 1, 2, 2, 3, 3, 4, 4, 5, 5, 6, 6, 7, 7, 8, 8, 9, 9, 10, 10, 11, 11, 12,
    12, 13, 13] ∧
  ∀ (s : State) (r : BitReader), s.inCovered → s.br = some r → s.ReaderOk r →
    (∀ c base extra, lengthClasses[c]? = some (base, extra) → r.pos + extra ≤ r.limit →
      ∃ r', s.ReaderOk r' ∧ r.Moved r' extra ∧ exec (.rcLenClass c) s = .next
        { s with br := some r', ret := base + bitsValue (s.streamBits r.lo r.pos extra) }) ∧
    (∀ c base extra, lengthClasses[c]? = some (base, extra) → r.limit < r.pos + extra →
      exec (.rcLenClass c) s = .next (s.raise .truncatedInput)) ∧
    (∀ (dc : BitVec 5) (base extra : Nat), distanceClasses[dc.toNat]? = some (base, extra) →
      r.limit < r.pos + extra → exec (.rcDistClass dc) s = .next (s.raise .truncatedInput)) ∧
    (∀ (dc : BitVec 5) (base extra : Nat), distanceClasses[dc.toNat]? = some (base, extra) →
      r.pos + extra ≤ r.limit →
      ∃ r', s.ReaderOk r' ∧ r.Moved r' extra ∧ exec (.rcDistClass dc) s = .next
        { s with br := some r', ret := base + bitsValue (s.streamBits r.lo r.pos extra) })

/-- Rules R114 and R124: an LZH8 body ends as soon as the output is complete; a Romchu block ends with its bits, and the
call only at a block's end. -/
def Obligations.BodiesEndByLengthOrByBlock : Prop :=
  ∀ s : State,
    (s.oc = s.declared → exec .lzh8Next s = .next
      { s with
        phase := .done
        status := { busy := false, done := true, err := 0, outValid := true, format := s.status.format } }) ∧
    (s.oc ≠ s.declared → exec .lzh8Next s = .next { s with phase := .lzh8Body }) ∧
    (∀ r, s.br = some r → r.pos < r.limit → exec .rcNext s = .next { s with phase := .rcBody }) ∧
    (∀ r, s.br = some r → r.limit ≤ r.pos → s.oc = s.declared → exec .rcNext s = .next
      { s with
        ip := s.rc.next, phase := .done
        status := { busy := false, done := true, err := 0, outValid := true, format := s.status.format } }) ∧
    (∀ r, s.br = some r → r.limit ≤ r.pos → s.oc ≠ s.declared → exec .rcNext s = .next
      { s with ip := s.rc.next, phase := .rcBlock })

/-- Rules R63 and R67: a Romchu symbol outside its alphabet cannot occur (the spec marks this as derived); the model stops
on it by name, in every state, which is its own choice (assumption log 12). -/
def Obligations.ReservedSymbolsStop : Prop :=
  ∀ (sym1 : BitVec 9) (sym2 : BitVec 5) (s : State),
    exec (.reservedRcSym1 sym1) s = .fault .reservedRomchuSymbol1 ∧
    exec (.reservedRcSym2 sym2) s = .fault .reservedRomchuSymbol2

/-- Rules R32, R33 and R63, and the model's choices in assumption logs 10, 11 and 12: what does not exist is never
delivered. A read of the active reader while none exists raises TruncatedInput; LZ_FLAGS and LZ_LIT, where their byte of
IN is at or above a finite IN_CAPACITY, and a class number outside the class tables stop by name. -/
def Obligations.WhatDoesNotExistIsNotDelivered : Prop :=
  ∀ s : State,
    (s.br = none → (∀ n, exec (.brReadbits (n + 1)) s = .next (s.raise .truncatedInput)) ∧
      exec .brRefill s = .next (s.raise .truncatedInput) ∧
      (∀ e, exec (.brCheckpad e) s = .next (s.raise .truncatedInput)) ∧
      (∀ t, exec (.htDecode t) s = .next (s.raise .truncatedInput)) ∧
      (∀ b, exec (.lzh8Lit b) s = .next (s.raise .truncatedInput)) ∧
      (∀ len3, exec (.lzh8Ref len3) s = .next (s.raise .truncatedInput)) ∧
      (∀ b, exec (.rcLit b) s = .next (s.raise .truncatedInput)) ∧
      (∀ cls, exec (.rcRef cls) s = .next (s.raise .truncatedInput)) ∧
      exec .rcNext s = .next (s.raise .truncatedInput)) ∧
    (∀ b c, s.ip < s.inLen.toNat → s.cfg.inCapacity = some c → c ≤ s.ip →
      exec (.lzFlags b) s = .fault .noSuchInAddress ∧ exec (.lzLit b) s = .fault .noSuchInAddress) ∧
    (∀ c, 29 ≤ c → exec (.rcLenClass c) s = .fault .reservedRomchuSymbol1) ∧
    (∀ dc : BitVec 5, 30 ≤ dc.toNat → exec (.rcDistClass dc) s = .fault .reservedRomchuSymbol2)

/-! ### Encodings and selection -/

/-- Rules R47 to R67: decoding an encoded well-formed operation gives it back, whatever bytes follow its encoding. -/
def Obligations.DecodeInvertsEncode : Prop :=
  ∀ (i : Instr) (e : Encoding) (more : List Byte), i.wf = true → encode i = some e →
    decode e.ctx e.value (e.rest ++ more) = .ok i

/-- Rules R47 to R67: the decoder answers only operations whose fields the encodings admit, and only for values that fit
their context. -/
def Obligations.DecodedOperationsAreWellFormed : Prop :=
  ∀ (c : Context) (v : Nat) (rest : List Byte) (i : Instr), decode c v rest = .ok i → i.wf = true ∧ v < 2 ^ c.width

/-- Rules R48, R49, R52, R53, R55, R57, R60, R61 and R63: words written out from the encodings decode to their
operations. -/
def Obligations.WordsOfTheSpecDecode : Prop :=
  decode .hdrLe32 0x00000A10 [] = .ok (.dispatchLz10 10) ∧
    decode .hdrBe32 0x00000029 [] = .ok (.dispatchN64lz 10) ∧
    decode .lz10Tok16 0x5001 [] = .ok (.lz10Ref 5 1) ∧
    decode .lz11Info16 0x2001 [] = .ok (.lz11RefShort 2 1) ∧
    decode .lz11Info16 0x0030 [0x00] = .ok (.lz11RefLong 3 0) ∧
    decode .lz11Info16 0x1FFF [0xFF, 0xFF] = .ok (.lz11RefMed 0xFFFF 0xFFF) ∧
    decode .h8Node8 0xC1 [] = .ok (.checkChild 1 1 1) ∧
    decode .lzh8Sym1 0x101 [] = .ok (.lzh8Ref 1) ∧
    decode .rcBlkhdr32 0x80000058 [] = .ok (.rcBlkComp 88) ∧
    decode .rcSym1 0x11C [] = .ok (.rcRef 28)

/-- Rules R10, R21, R88, R89, R92, R100, R103, R114 and R124: with no host turn waiting, a step runs the operation that the
phase and the bits at the cursor decode to; the turn adds nothing to it. Where the selection lacks a byte, a pool bit or a
code's bit the step raises TruncatedInput, and where it walks into an absent child HuffmanTableCorrupt. -/
def Obligations.StepRunsTheDecodedOperation : Prop :=
  ∀ s : State, s.host = [] → s.inCovered →
    (s.phase = .dispatch → step s = exec .dispatch s) ∧
    (s.phase = .h8Setup → step s = exec .h8Setup s) ∧
    (s.phase = .lzh8Setup → step s = exec .lzh8Setup s) ∧
    (s.phase = .rcBlock → step s = exec .rcBlock s) ∧
    (∀ i, s.phase = .lzFlag → s.ip + 1 ≤ s.inLen.toNat → decode .lzFlag8 (s.inByte s.ip).toNat [] = .ok i →
      step s = exec i s) ∧
    (∀ i, s.phase = .lzToken → s.flagBit = false → s.ip + 1 ≤ s.inLen.toNat →
      decode .lzFlagbit 0 [s.inByte s.ip] = .ok i → step s = exec i s) ∧
    (∀ i, s.phase = .lzToken → s.flagBit = true → (s.fmt = 1 ∨ s.fmt = 3) → s.ip + 2 ≤ s.inLen.toNat →
      decode .lz10Tok16 (beValue (s.inBytes s.ip 2)) [] = .ok i → step s = exec i s) ∧
    (∀ i, s.phase = .lzToken → s.flagBit = true → s.fmt = 2 →
      s.ip + 2 + lz11ExtraBytes (beValue (s.inBytes s.ip 2)) ≤ s.inLen.toNat →
      decode .lz11Info16 (beValue (s.inBytes s.ip 2))
        (s.inBytes (s.ip + 2) (lz11ExtraBytes (beValue (s.inBytes s.ip 2)))) = .ok i → step s = exec i s) ∧
    (∀ i, s.phase = .h8Walk → s.poolReady →
      decode .h8Bit (s.pooled.pw.getLsbD s.pooled.pbits).toNat [] = .ok i → step s = exec i s) ∧
    (∀ i r n v, s.br = some r → s.ReaderOk r → r.pos + n ≤ r.limit →
      treeSymbol s.t1.node 0 (s.streamBits r.lo r.pos n) = some v →
      (s.phase = .lzh8Body → decode .lzh8Sym1 v [] = .ok i → step s = exec i s) ∧
      (s.phase = .rcBody → decode .rcSym1 v [] = .ok i → step s = exec i s)) ∧
    (s.phase = .lzFlag → s.inLen.toNat < s.ip + 1 → step s = .next (s.raise .truncatedInput)) ∧
    (s.phase = .lzToken → s.flagBit = false → s.inLen.toNat < s.ip + 1 → step s = .next (s.raise .truncatedInput)) ∧
    (s.phase = .lzToken → s.flagBit = true → (s.fmt = 1 ∨ s.fmt = 2 ∨ s.fmt = 3) → s.inLen.toNat < s.ip + 2 →
      step s = .next (s.raise .truncatedInput)) ∧
    (s.phase = .lzToken → s.flagBit = true → s.fmt = 2 → s.ip + 2 ≤ s.inLen.toNat →
      s.inLen.toNat < s.ip + 2 + lz11ExtraBytes (beValue (s.inBytes s.ip 2)) →
      step s = .next (s.raise .truncatedInput)) ∧
    (s.phase = .h8Walk → ¬ s.poolReady → step s = .next (s.raise .truncatedInput)) ∧
    (∀ r n, s.br = some r → s.ReaderOk r → r.pos + n ≤ r.limit → (s.phase = .lzh8Body ∨ s.phase = .rcBody) →
      (treeMissing s.t1.node 0 (s.streamBits r.lo r.pos n) = true → step s = .next (s.raise .huffmanTableCorrupt)) ∧
      (r.pos + n = r.limit → treeInside s.t1.node 0 (s.streamBits r.lo r.pos n) = true →
        step s = .next (s.raise .truncatedInput)))

/-! ### The whole machine -/

/-- Rules R14, R31, R33 and R46: no operation writes IN, TAG_HINT, IN_LEN or the configuration. The fields that hold the
configuration (assumption log 6), the count of resets (assumption log 2), the host's turns and the word it last read
(assumption log 4) are the model's own. -/
def Obligations.NoOperationWritesItsInput : Prop :=
  ∀ (i : Instr) (s t : State), exec i s = .next t →
    t.inMem = s.inMem ∧ t.hint = s.hint ∧ t.inLen = s.inLen ∧ t.cfg = s.cfg ∧ t.resets = s.resets ∧
      t.host = s.host ∧ t.hostData = s.hostData

/-- Rule R34: an operation leaves every byte below the cursor and every byte at or above the declared length as it was.
Two of its cases are the model's choices: OUT kept across an error (assumption log 8), and the write at L refused in every
operation, whatever state it is run in (assumption log 18). -/
def Obligations.OutIsWrittenOnlyInside : Prop :=
  ∀ (i : Instr) (s t : State) (a : Nat), exec i s = .next t → (a < s.oc ∨ s.declared ≤ a) →
    t.outByte a = s.outByte a

/-- Rules R18, R23 to R29 and R132: every step, of the host or of the engine, keeps the invariant: both memories
canonical, STATUS legal, the cursor within the declared length, and each phase's registers as its rules say. -/
def Obligations.StepKeepsTheInvariant : Prop :=
  ∀ s t : State, s.Inv → step s = .next t → t.Inv

/-- The invariant holds after power-on reset (rule R143). -/
def Obligations.InvariantHoldsAtReset : Prop := State.reset.Inv

/-- Rules R21 and R151, which the spec marks as derived: from a state that meets the invariant the engine never hangs,
stops or refuses: its turn answers a next state, for IN covered by its capacity and the source's alphabets. -/
def Obligations.EngineAlwaysProceeds : Prop :=
  ∀ s : State, s.Inv → s.inCovered → alphabetsOk s.cfg → s.host = [] → ∃ t, step s = .next t

/-- Rules R150 and R151, which the spec marks as derived: every call ends, within `8 * IN_LEN + 4` steps after START, in success or in failure. -/
def Obligations.EveryCallTerminates : Prop :=
  ∀ s t : State, s.Inv → s.inCovered → alphabetsOk s.cfg → s.host = [] → s.status.busy = false →
    exec .cmdStart s = .next t →
    ∃ k u, k ≤ 8 * s.inLen.toNat + 4 ∧ Sys2Proof.core.run k t = .next u ∧ u.phase = .done ∧ u.ended

/-- Rule R33: the bytes of IN at or above IN_LEN never matter: a step on other such bytes does the same. -/
def Obligations.BytesPastInLenNeverMatter : Prop :=
  ∀ (s : State) (m : Memory), s.host = [] → (∀ a < s.inLen.toNat, (s.withIn m).inByte a = s.inByte a) →
    step (s.withIn m) = mapNext (fun u => u.withIn m) (step s)

/-- Rule R42: a call's status and length, and on success its output, depend on IN up to IN_LEN, IN_LEN, TAG_HINT and the
configuration alone, whatever the machine did before. -/
def Obligations.DecodeDependsOnItsInputOnly : Prop :=
  ∀ (s s' t t' u : State) (k : Nat), s.status.busy = false → s'.status.busy = false → s.host = [] → s'.host = [] →
    s'.hint = s.hint → s'.inLen = s.inLen → s'.cfg = s.cfg → (∀ a < s.inLen.toNat, s'.inByte a = s.inByte a) →
    exec .cmdStart s = .next t → exec .cmdStart s' = .next t' → Sys2Proof.core.run k t = .next u →
    ∃ u', Sys2Proof.core.run k t' = .next u' ∧ u'.status = u.status ∧ u'.outLen = u.outLen ∧ u'.phase = u.phase ∧
      (u.status.outValid = true → ∀ a < u.outLen.toNat, u'.outByte a = u.outByte a)
end

