-- ==== Sys2Proof/Laws/State.lean ====
section
/-! SUPPORT. What each named update of the state does to each field. -/

namespace Sys2Proof.Machine

/-! ### setEngine -/

@[simp] theorem State.setEngine_hint (s : State) (r : EngineRegs) : (s.setEngine r).hint = s.hint := rfl
@[simp] theorem State.setEngine_inLen (s : State) (r : EngineRegs) : (s.setEngine r).inLen = s.inLen := rfl
@[simp] theorem State.setEngine_status (s : State) (r : EngineRegs) : (s.setEngine r).status = s.status := rfl
@[simp] theorem State.setEngine_outLen (s : State) (r : EngineRegs) : (s.setEngine r).outLen = s.outLen := rfl
@[simp] theorem State.setEngine_inMem (s : State) (r : EngineRegs) : (s.setEngine r).inMem = s.inMem := rfl
@[simp] theorem State.setEngine_outMem (s : State) (r : EngineRegs) : (s.setEngine r).outMem = s.outMem := rfl
@[simp] theorem State.setEngine_phase (s : State) (r : EngineRegs) : (s.setEngine r).phase = s.phase := rfl
@[simp] theorem State.setEngine_ip (s : State) (r : EngineRegs) : (s.setEngine r).ip = r.ip := rfl
@[simp] theorem State.setEngine_br (s : State) (r : EngineRegs) : (s.setEngine r).br = r.br := rfl
@[simp] theorem State.setEngine_declared (s : State) (r : EngineRegs) : (s.setEngine r).declared = r.declared := rfl
@[simp] theorem State.setEngine_oc (s : State) (r : EngineRegs) : (s.setEngine r).oc = r.oc := rfl
@[simp] theorem State.setEngine_flag (s : State) (r : EngineRegs) : (s.setEngine r).flag = r.flag := rfl
@[simp] theorem State.setEngine_fcnt (s : State) (r : EngineRegs) : (s.setEngine r).fcnt = r.fcnt := rfl
@[simp] theorem State.setEngine_fmt (s : State) (r : EngineRegs) : (s.setEngine r).fmt = r.fmt := rfl
@[simp] theorem State.setEngine_t1 (s : State) (r : EngineRegs) : (s.setEngine r).t1 = r.t1 := rfl
@[simp] theorem State.setEngine_t2 (s : State) (r : EngineRegs) : (s.setEngine r).t2 = r.t2 := rfl
@[simp] theorem State.setEngine_h8 (s : State) (r : EngineRegs) : (s.setEngine r).h8 = r.h8 := rfl
@[simp] theorem State.setEngine_rc (s : State) (r : EngineRegs) : (s.setEngine r).rc = r.rc := rfl
@[simp] theorem State.setEngine_host (s : State) (r : EngineRegs) : (s.setEngine r).host = s.host := rfl
@[simp] theorem State.setEngine_hostData (s : State) (r : EngineRegs) : (s.setEngine r).hostData = s.hostData := rfl
@[simp] theorem State.setEngine_ret (s : State) (r : EngineRegs) : (s.setEngine r).ret = s.ret := rfl
@[simp] theorem State.setEngine_errors (s : State) (r : EngineRegs) : (s.setEngine r).errors = s.errors := rfl
@[simp] theorem State.setEngine_resets (s : State) (r : EngineRegs) : (s.setEngine r).resets = s.resets := rfl
@[simp] theorem State.setEngine_cfg (s : State) (r : EngineRegs) : (s.setEngine r).cfg = s.cfg := rfl

/-! ### setPhase -/

@[simp] theorem State.setPhase_hint (s : State) (p : Phase) : (s.setPhase p).hint = s.hint := rfl
@[simp] theorem State.setPhase_inLen (s : State) (p : Phase) : (s.setPhase p).inLen = s.inLen := rfl
@[simp] theorem State.setPhase_status (s : State) (p : Phase) : (s.setPhase p).status = s.status := rfl
@[simp] theorem State.setPhase_outLen (s : State) (p : Phase) : (s.setPhase p).outLen = s.outLen := rfl
@[simp] theorem State.setPhase_inMem (s : State) (p : Phase) : (s.setPhase p).inMem = s.inMem := rfl
@[simp] theorem State.setPhase_outMem (s : State) (p : Phase) : (s.setPhase p).outMem = s.outMem := rfl
@[simp] theorem State.setPhase_phase (s : State) (p : Phase) : (s.setPhase p).phase = p := rfl
@[simp] theorem State.setPhase_ip (s : State) (p : Phase) : (s.setPhase p).ip = s.ip := rfl
@[simp] theorem State.setPhase_br (s : State) (p : Phase) : (s.setPhase p).br = s.br := rfl
@[simp] theorem State.setPhase_declared (s : State) (p : Phase) : (s.setPhase p).declared = s.declared := rfl
@[simp] theorem State.setPhase_oc (s : State) (p : Phase) : (s.setPhase p).oc = s.oc := rfl
@[simp] theorem State.setPhase_flag (s : State) (p : Phase) : (s.setPhase p).flag = s.flag := rfl
@[simp] theorem State.setPhase_fcnt (s : State) (p : Phase) : (s.setPhase p).fcnt = s.fcnt := rfl
@[simp] theorem State.setPhase_fmt (s : State) (p : Phase) : (s.setPhase p).fmt = s.fmt := rfl
@[simp] theorem State.setPhase_t1 (s : State) (p : Phase) : (s.setPhase p).t1 = s.t1 := rfl
@[simp] theorem State.setPhase_t2 (s : State) (p : Phase) : (s.setPhase p).t2 = s.t2 := rfl
@[simp] theorem State.setPhase_h8 (s : State) (p : Phase) : (s.setPhase p).h8 = s.h8 := rfl
@[simp] theorem State.setPhase_rc (s : State) (p : Phase) : (s.setPhase p).rc = s.rc := rfl
@[simp] theorem State.setPhase_host (s : State) (p : Phase) : (s.setPhase p).host = s.host := rfl
@[simp] theorem State.setPhase_hostData (s : State) (p : Phase) : (s.setPhase p).hostData = s.hostData := rfl
@[simp] theorem State.setPhase_ret (s : State) (p : Phase) : (s.setPhase p).ret = s.ret := rfl
@[simp] theorem State.setPhase_errors (s : State) (p : Phase) : (s.setPhase p).errors = s.errors := rfl
@[simp] theorem State.setPhase_resets (s : State) (p : Phase) : (s.setPhase p).resets = s.resets := rfl
@[simp] theorem State.setPhase_cfg (s : State) (p : Phase) : (s.setPhase p).cfg = s.cfg := rfl

/-! ### setIp -/

@[simp] theorem State.setIp_hint (s : State) (a : Nat) : (s.setIp a).hint = s.hint := rfl
@[simp] theorem State.setIp_inLen (s : State) (a : Nat) : (s.setIp a).inLen = s.inLen := rfl
@[simp] theorem State.setIp_status (s : State) (a : Nat) : (s.setIp a).status = s.status := rfl
@[simp] theorem State.setIp_outLen (s : State) (a : Nat) : (s.setIp a).outLen = s.outLen := rfl
@[simp] theorem State.setIp_inMem (s : State) (a : Nat) : (s.setIp a).inMem = s.inMem := rfl
@[simp] theorem State.setIp_outMem (s : State) (a : Nat) : (s.setIp a).outMem = s.outMem := rfl
@[simp] theorem State.setIp_phase (s : State) (a : Nat) : (s.setIp a).phase = s.phase := rfl
@[simp] theorem State.setIp_ip (s : State) (a : Nat) : (s.setIp a).ip = a := rfl
@[simp] theorem State.setIp_br (s : State) (a : Nat) : (s.setIp a).br = s.br := rfl
@[simp] theorem State.setIp_declared (s : State) (a : Nat) : (s.setIp a).declared = s.declared := rfl
@[simp] theorem State.setIp_oc (s : State) (a : Nat) : (s.setIp a).oc = s.oc := rfl
@[simp] theorem State.setIp_flag (s : State) (a : Nat) : (s.setIp a).flag = s.flag := rfl
@[simp] theorem State.setIp_fcnt (s : State) (a : Nat) : (s.setIp a).fcnt = s.fcnt := rfl
@[simp] theorem State.setIp_fmt (s : State) (a : Nat) : (s.setIp a).fmt = s.fmt := rfl
@[simp] theorem State.setIp_t1 (s : State) (a : Nat) : (s.setIp a).t1 = s.t1 := rfl
@[simp] theorem State.setIp_t2 (s : State) (a : Nat) : (s.setIp a).t2 = s.t2 := rfl
@[simp] theorem State.setIp_h8 (s : State) (a : Nat) : (s.setIp a).h8 = s.h8 := rfl
@[simp] theorem State.setIp_rc (s : State) (a : Nat) : (s.setIp a).rc = s.rc := rfl
@[simp] theorem State.setIp_host (s : State) (a : Nat) : (s.setIp a).host = s.host := rfl
@[simp] theorem State.setIp_hostData (s : State) (a : Nat) : (s.setIp a).hostData = s.hostData := rfl
@[simp] theorem State.setIp_ret (s : State) (a : Nat) : (s.setIp a).ret = s.ret := rfl
@[simp] theorem State.setIp_errors (s : State) (a : Nat) : (s.setIp a).errors = s.errors := rfl
@[simp] theorem State.setIp_resets (s : State) (a : Nat) : (s.setIp a).resets = s.resets := rfl
@[simp] theorem State.setIp_cfg (s : State) (a : Nat) : (s.setIp a).cfg = s.cfg := rfl

/-! ### setReader -/

@[simp] theorem State.setReader_hint (s : State) (r : BitReader) : (s.setReader r).hint = s.hint := rfl
@[simp] theorem State.setReader_inLen (s : State) (r : BitReader) : (s.setReader r).inLen = s.inLen := rfl
@[simp] theorem State.setReader_status (s : State) (r : BitReader) : (s.setReader r).status = s.status := rfl
@[simp] theorem State.setReader_outLen (s : State) (r : BitReader) : (s.setReader r).outLen = s.outLen := rfl
@[simp] theorem State.setReader_inMem (s : State) (r : BitReader) : (s.setReader r).inMem = s.inMem := rfl
@[simp] theorem State.setReader_outMem (s : State) (r : BitReader) : (s.setReader r).outMem = s.outMem := rfl
@[simp] theorem State.setReader_phase (s : State) (r : BitReader) : (s.setReader r).phase = s.phase := rfl
@[simp] theorem State.setReader_ip (s : State) (r : BitReader) : (s.setReader r).ip = s.ip := rfl
@[simp] theorem State.setReader_br (s : State) (r : BitReader) : (s.setReader r).br = some r := rfl
@[simp] theorem State.setReader_declared (s : State) (r : BitReader) : (s.setReader r).declared = s.declared := rfl
@[simp] theorem State.setReader_oc (s : State) (r : BitReader) : (s.setReader r).oc = s.oc := rfl
@[simp] theorem State.setReader_flag (s : State) (r : BitReader) : (s.setReader r).flag = s.flag := rfl
@[simp] theorem State.setReader_fcnt (s : State) (r : BitReader) : (s.setReader r).fcnt = s.fcnt := rfl
@[simp] theorem State.setReader_fmt (s : State) (r : BitReader) : (s.setReader r).fmt = s.fmt := rfl
@[simp] theorem State.setReader_t1 (s : State) (r : BitReader) : (s.setReader r).t1 = s.t1 := rfl
@[simp] theorem State.setReader_t2 (s : State) (r : BitReader) : (s.setReader r).t2 = s.t2 := rfl
@[simp] theorem State.setReader_h8 (s : State) (r : BitReader) : (s.setReader r).h8 = s.h8 := rfl
@[simp] theorem State.setReader_rc (s : State) (r : BitReader) : (s.setReader r).rc = s.rc := rfl
@[simp] theorem State.setReader_host (s : State) (r : BitReader) : (s.setReader r).host = s.host := rfl
@[simp] theorem State.setReader_hostData (s : State) (r : BitReader) : (s.setReader r).hostData = s.hostData := rfl
@[simp] theorem State.setReader_ret (s : State) (r : BitReader) : (s.setReader r).ret = s.ret := rfl
@[simp] theorem State.setReader_errors (s : State) (r : BitReader) : (s.setReader r).errors = s.errors := rfl
@[simp] theorem State.setReader_resets (s : State) (r : BitReader) : (s.setReader r).resets = s.resets := rfl
@[simp] theorem State.setReader_cfg (s : State) (r : BitReader) : (s.setReader r).cfg = s.cfg := rfl

/-! ### setFcnt -/

@[simp] theorem State.setFcnt_hint (s : State) (n : Nat) : (s.setFcnt n).hint = s.hint := rfl
@[simp] theorem State.setFcnt_inLen (s : State) (n : Nat) : (s.setFcnt n).inLen = s.inLen := rfl
@[simp] theorem State.setFcnt_status (s : State) (n : Nat) : (s.setFcnt n).status = s.status := rfl
@[simp] theorem State.setFcnt_outLen (s : State) (n : Nat) : (s.setFcnt n).outLen = s.outLen := rfl
@[simp] theorem State.setFcnt_inMem (s : State) (n : Nat) : (s.setFcnt n).inMem = s.inMem := rfl
@[simp] theorem State.setFcnt_outMem (s : State) (n : Nat) : (s.setFcnt n).outMem = s.outMem := rfl
@[simp] theorem State.setFcnt_phase (s : State) (n : Nat) : (s.setFcnt n).phase = s.phase := rfl
@[simp] theorem State.setFcnt_ip (s : State) (n : Nat) : (s.setFcnt n).ip = s.ip := rfl
@[simp] theorem State.setFcnt_br (s : State) (n : Nat) : (s.setFcnt n).br = s.br := rfl
@[simp] theorem State.setFcnt_declared (s : State) (n : Nat) : (s.setFcnt n).declared = s.declared := rfl
@[simp] theorem State.setFcnt_oc (s : State) (n : Nat) : (s.setFcnt n).oc = s.oc := rfl
@[simp] theorem State.setFcnt_flag (s : State) (n : Nat) : (s.setFcnt n).flag = s.flag := rfl
@[simp] theorem State.setFcnt_fcnt (s : State) (n : Nat) : (s.setFcnt n).fcnt = n := rfl
@[simp] theorem State.setFcnt_fmt (s : State) (n : Nat) : (s.setFcnt n).fmt = s.fmt := rfl
@[simp] theorem State.setFcnt_t1 (s : State) (n : Nat) : (s.setFcnt n).t1 = s.t1 := rfl
@[simp] theorem State.setFcnt_t2 (s : State) (n : Nat) : (s.setFcnt n).t2 = s.t2 := rfl
@[simp] theorem State.setFcnt_h8 (s : State) (n : Nat) : (s.setFcnt n).h8 = s.h8 := rfl
@[simp] theorem State.setFcnt_rc (s : State) (n : Nat) : (s.setFcnt n).rc = s.rc := rfl
@[simp] theorem State.setFcnt_host (s : State) (n : Nat) : (s.setFcnt n).host = s.host := rfl
@[simp] theorem State.setFcnt_hostData (s : State) (n : Nat) : (s.setFcnt n).hostData = s.hostData := rfl
@[simp] theorem State.setFcnt_ret (s : State) (n : Nat) : (s.setFcnt n).ret = s.ret := rfl
@[simp] theorem State.setFcnt_errors (s : State) (n : Nat) : (s.setFcnt n).errors = s.errors := rfl
@[simp] theorem State.setFcnt_resets (s : State) (n : Nat) : (s.setFcnt n).resets = s.resets := rfl
@[simp] theorem State.setFcnt_cfg (s : State) (n : Nat) : (s.setFcnt n).cfg = s.cfg := rfl

/-! ### setFlags -/

@[simp] theorem State.setFlags_hint (s : State) (b : Byte) : (s.setFlags b).hint = s.hint := rfl
@[simp] theorem State.setFlags_inLen (s : State) (b : Byte) : (s.setFlags b).inLen = s.inLen := rfl
@[simp] theorem State.setFlags_status (s : State) (b : Byte) : (s.setFlags b).status = s.status := rfl
@[simp] theorem State.setFlags_outLen (s : State) (b : Byte) : (s.setFlags b).outLen = s.outLen := rfl
@[simp] theorem State.setFlags_inMem (s : State) (b : Byte) : (s.setFlags b).inMem = s.inMem := rfl
@[simp] theorem State.setFlags_outMem (s : State) (b : Byte) : (s.setFlags b).outMem = s.outMem := rfl
@[simp] theorem State.setFlags_phase (s : State) (b : Byte) : (s.setFlags b).phase = s.phase := rfl
@[simp] theorem State.setFlags_ip (s : State) (b : Byte) : (s.setFlags b).ip = s.ip := rfl
@[simp] theorem State.setFlags_br (s : State) (b : Byte) : (s.setFlags b).br = s.br := rfl
@[simp] theorem State.setFlags_declared (s : State) (b : Byte) : (s.setFlags b).declared = s.declared := rfl
@[simp] theorem State.setFlags_oc (s : State) (b : Byte) : (s.setFlags b).oc = s.oc := rfl
@[simp] theorem State.setFlags_flag (s : State) (b : Byte) : (s.setFlags b).flag = b := rfl
@[simp] theorem State.setFlags_fcnt (s : State) (b : Byte) : (s.setFlags b).fcnt = 8 := rfl
@[simp] theorem State.setFlags_fmt (s : State) (b : Byte) : (s.setFlags b).fmt = s.fmt := rfl
@[simp] theorem State.setFlags_t1 (s : State) (b : Byte) : (s.setFlags b).t1 = s.t1 := rfl
@[simp] theorem State.setFlags_t2 (s : State) (b : Byte) : (s.setFlags b).t2 = s.t2 := rfl
@[simp] theorem State.setFlags_h8 (s : State) (b : Byte) : (s.setFlags b).h8 = s.h8 := rfl
@[simp] theorem State.setFlags_rc (s : State) (b : Byte) : (s.setFlags b).rc = s.rc := rfl
@[simp] theorem State.setFlags_host (s : State) (b : Byte) : (s.setFlags b).host = s.host := rfl
@[simp] theorem State.setFlags_hostData (s : State) (b : Byte) : (s.setFlags b).hostData = s.hostData := rfl
@[simp] theorem State.setFlags_ret (s : State) (b : Byte) : (s.setFlags b).ret = s.ret := rfl
@[simp] theorem State.setFlags_errors (s : State) (b : Byte) : (s.setFlags b).errors = s.errors := rfl
@[simp] theorem State.setFlags_resets (s : State) (b : Byte) : (s.setFlags b).resets = s.resets := rfl
@[simp] theorem State.setFlags_cfg (s : State) (b : Byte) : (s.setFlags b).cfg = s.cfg := rfl

/-! ### setH8 -/

@[simp] theorem State.setH8_hint (s : State) (r : Huf8Regs) : (s.setH8 r).hint = s.hint := rfl
@[simp] theorem State.setH8_inLen (s : State) (r : Huf8Regs) : (s.setH8 r).inLen = s.inLen := rfl
@[simp] theorem State.setH8_status (s : State) (r : Huf8Regs) : (s.setH8 r).status = s.status := rfl
@[simp] theorem State.setH8_outLen (s : State) (r : Huf8Regs) : (s.setH8 r).outLen = s.outLen := rfl
@[simp] theorem State.setH8_inMem (s : State) (r : Huf8Regs) : (s.setH8 r).inMem = s.inMem := rfl
@[simp] theorem State.setH8_outMem (s : State) (r : Huf8Regs) : (s.setH8 r).outMem = s.outMem := rfl
@[simp] theorem State.setH8_phase (s : State) (r : Huf8Regs) : (s.setH8 r).phase = s.phase := rfl
@[simp] theorem State.setH8_ip (s : State) (r : Huf8Regs) : (s.setH8 r).ip = s.ip := rfl
@[simp] theorem State.setH8_br (s : State) (r : Huf8Regs) : (s.setH8 r).br = s.br := rfl
@[simp] theorem State.setH8_declared (s : State) (r : Huf8Regs) : (s.setH8 r).declared = s.declared := rfl
@[simp] theorem State.setH8_oc (s : State) (r : Huf8Regs) : (s.setH8 r).oc = s.oc := rfl
@[simp] theorem State.setH8_flag (s : State) (r : Huf8Regs) : (s.setH8 r).flag = s.flag := rfl
@[simp] theorem State.setH8_fcnt (s : State) (r : Huf8Regs) : (s.setH8 r).fcnt = s.fcnt := rfl
@[simp] theorem State.setH8_fmt (s : State) (r : Huf8Regs) : (s.setH8 r).fmt = s.fmt := rfl
@[simp] theorem State.setH8_t1 (s : State) (r : Huf8Regs) : (s.setH8 r).t1 = s.t1 := rfl
@[simp] theorem State.setH8_t2 (s : State) (r : Huf8Regs) : (s.setH8 r).t2 = s.t2 := rfl
@[simp] theorem State.setH8_h8 (s : State) (r : Huf8Regs) : (s.setH8 r).h8 = r := rfl
@[simp] theorem State.setH8_rc (s : State) (r : Huf8Regs) : (s.setH8 r).rc = s.rc := rfl
@[simp] theorem State.setH8_host (s : State) (r : Huf8Regs) : (s.setH8 r).host = s.host := rfl
@[simp] theorem State.setH8_hostData (s : State) (r : Huf8Regs) : (s.setH8 r).hostData = s.hostData := rfl
@[simp] theorem State.setH8_ret (s : State) (r : Huf8Regs) : (s.setH8 r).ret = s.ret := rfl
@[simp] theorem State.setH8_errors (s : State) (r : Huf8Regs) : (s.setH8 r).errors = s.errors := rfl
@[simp] theorem State.setH8_resets (s : State) (r : Huf8Regs) : (s.setH8 r).resets = s.resets := rfl
@[simp] theorem State.setH8_cfg (s : State) (r : Huf8Regs) : (s.setH8 r).cfg = s.cfg := rfl

/-! ### setRc -/

@[simp] theorem State.setRc_hint (s : State) (r : RomchuRegs) : (s.setRc r).hint = s.hint := rfl
@[simp] theorem State.setRc_inLen (s : State) (r : RomchuRegs) : (s.setRc r).inLen = s.inLen := rfl
@[simp] theorem State.setRc_status (s : State) (r : RomchuRegs) : (s.setRc r).status = s.status := rfl
@[simp] theorem State.setRc_outLen (s : State) (r : RomchuRegs) : (s.setRc r).outLen = s.outLen := rfl
@[simp] theorem State.setRc_inMem (s : State) (r : RomchuRegs) : (s.setRc r).inMem = s.inMem := rfl
@[simp] theorem State.setRc_outMem (s : State) (r : RomchuRegs) : (s.setRc r).outMem = s.outMem := rfl
@[simp] theorem State.setRc_phase (s : State) (r : RomchuRegs) : (s.setRc r).phase = s.phase := rfl
@[simp] theorem State.setRc_ip (s : State) (r : RomchuRegs) : (s.setRc r).ip = s.ip := rfl
@[simp] theorem State.setRc_br (s : State) (r : RomchuRegs) : (s.setRc r).br = s.br := rfl
@[simp] theorem State.setRc_declared (s : State) (r : RomchuRegs) : (s.setRc r).declared = s.declared := rfl
@[simp] theorem State.setRc_oc (s : State) (r : RomchuRegs) : (s.setRc r).oc = s.oc := rfl
@[simp] theorem State.setRc_flag (s : State) (r : RomchuRegs) : (s.setRc r).flag = s.flag := rfl
@[simp] theorem State.setRc_fcnt (s : State) (r : RomchuRegs) : (s.setRc r).fcnt = s.fcnt := rfl
@[simp] theorem State.setRc_fmt (s : State) (r : RomchuRegs) : (s.setRc r).fmt = s.fmt := rfl
@[simp] theorem State.setRc_t1 (s : State) (r : RomchuRegs) : (s.setRc r).t1 = s.t1 := rfl
@[simp] theorem State.setRc_t2 (s : State) (r : RomchuRegs) : (s.setRc r).t2 = s.t2 := rfl
@[simp] theorem State.setRc_h8 (s : State) (r : RomchuRegs) : (s.setRc r).h8 = s.h8 := rfl
@[simp] theorem State.setRc_rc (s : State) (r : RomchuRegs) : (s.setRc r).rc = r := rfl
@[simp] theorem State.setRc_host (s : State) (r : RomchuRegs) : (s.setRc r).host = s.host := rfl
@[simp] theorem State.setRc_hostData (s : State) (r : RomchuRegs) : (s.setRc r).hostData = s.hostData := rfl
@[simp] theorem State.setRc_ret (s : State) (r : RomchuRegs) : (s.setRc r).ret = s.ret := rfl
@[simp] theorem State.setRc_errors (s : State) (r : RomchuRegs) : (s.setRc r).errors = s.errors := rfl
@[simp] theorem State.setRc_resets (s : State) (r : RomchuRegs) : (s.setRc r).resets = s.resets := rfl
@[simp] theorem State.setRc_cfg (s : State) (r : RomchuRegs) : (s.setRc r).cfg = s.cfg := rfl

/-! ### setDeclared -/

@[simp] theorem State.setDeclared_hint (s : State) (n : Nat) : (s.setDeclared n).hint = s.hint := rfl
@[simp] theorem State.setDeclared_inLen (s : State) (n : Nat) : (s.setDeclared n).inLen = s.inLen := rfl
@[simp] theorem State.setDeclared_status (s : State) (n : Nat) : (s.setDeclared n).status = s.status := rfl
@[simp] theorem State.setDeclared_outLen (s : State) (n : Nat) : (s.setDeclared n).outLen = BitVec.ofNat 32 n := rfl
@[simp] theorem State.setDeclared_inMem (s : State) (n : Nat) : (s.setDeclared n).inMem = s.inMem := rfl
@[simp] theorem State.setDeclared_outMem (s : State) (n : Nat) : (s.setDeclared n).outMem = s.outMem := rfl
@[simp] theorem State.setDeclared_phase (s : State) (n : Nat) : (s.setDeclared n).phase = s.phase := rfl
@[simp] theorem State.setDeclared_ip (s : State) (n : Nat) : (s.setDeclared n).ip = s.ip := rfl
@[simp] theorem State.setDeclared_br (s : State) (n : Nat) : (s.setDeclared n).br = s.br := rfl
@[simp] theorem State.setDeclared_declared (s : State) (n : Nat) : (s.setDeclared n).declared = n := rfl
@[simp] theorem State.setDeclared_oc (s : State) (n : Nat) : (s.setDeclared n).oc = s.oc := rfl
@[simp] theorem State.setDeclared_flag (s : State) (n : Nat) : (s.setDeclared n).flag = s.flag := rfl
@[simp] theorem State.setDeclared_fcnt (s : State) (n : Nat) : (s.setDeclared n).fcnt = s.fcnt := rfl
@[simp] theorem State.setDeclared_fmt (s : State) (n : Nat) : (s.setDeclared n).fmt = s.fmt := rfl
@[simp] theorem State.setDeclared_t1 (s : State) (n : Nat) : (s.setDeclared n).t1 = s.t1 := rfl
@[simp] theorem State.setDeclared_t2 (s : State) (n : Nat) : (s.setDeclared n).t2 = s.t2 := rfl
@[simp] theorem State.setDeclared_h8 (s : State) (n : Nat) : (s.setDeclared n).h8 = s.h8 := rfl
@[simp] theorem State.setDeclared_rc (s : State) (n : Nat) : (s.setDeclared n).rc = s.rc := rfl
@[simp] theorem State.setDeclared_host (s : State) (n : Nat) : (s.setDeclared n).host = s.host := rfl
@[simp] theorem State.setDeclared_hostData (s : State) (n : Nat) : (s.setDeclared n).hostData = s.hostData := rfl
@[simp] theorem State.setDeclared_ret (s : State) (n : Nat) : (s.setDeclared n).ret = s.ret := rfl
@[simp] theorem State.setDeclared_errors (s : State) (n : Nat) : (s.setDeclared n).errors = s.errors := rfl
@[simp] theorem State.setDeclared_resets (s : State) (n : Nat) : (s.setDeclared n).resets = s.resets := rfl
@[simp] theorem State.setDeclared_cfg (s : State) (n : Nat) : (s.setDeclared n).cfg = s.cfg := rfl

/-! ### setFormat -/

@[simp] theorem State.setFormat_hint (s : State) (f : Format) : (s.setFormat f).hint = s.hint := rfl
@[simp] theorem State.setFormat_inLen (s : State) (f : Format) : (s.setFormat f).inLen = s.inLen := rfl
@[simp] theorem State.setFormat_status (s : State) (f : Format) : (s.setFormat f).status = { s.status with format := f.code } := rfl
@[simp] theorem State.setFormat_outLen (s : State) (f : Format) : (s.setFormat f).outLen = s.outLen := rfl
@[simp] theorem State.setFormat_inMem (s : State) (f : Format) : (s.setFormat f).inMem = s.inMem := rfl
@[simp] theorem State.setFormat_outMem (s : State) (f : Format) : (s.setFormat f).outMem = s.outMem := rfl
@[simp] theorem State.setFormat_phase (s : State) (f : Format) : (s.setFormat f).phase = s.phase := rfl
@[simp] theorem State.setFormat_ip (s : State) (f : Format) : (s.setFormat f).ip = s.ip := rfl
@[simp] theorem State.setFormat_br (s : State) (f : Format) : (s.setFormat f).br = s.br := rfl
@[simp] theorem State.setFormat_declared (s : State) (f : Format) : (s.setFormat f).declared = s.declared := rfl
@[simp] theorem State.setFormat_oc (s : State) (f : Format) : (s.setFormat f).oc = s.oc := rfl
@[simp] theorem State.setFormat_flag (s : State) (f : Format) : (s.setFormat f).flag = s.flag := rfl
@[simp] theorem State.setFormat_fcnt (s : State) (f : Format) : (s.setFormat f).fcnt = s.fcnt := rfl
@[simp] theorem State.setFormat_fmt (s : State) (f : Format) : (s.setFormat f).fmt = f.code := rfl
@[simp] theorem State.setFormat_t1 (s : State) (f : Format) : (s.setFormat f).t1 = s.t1 := rfl
@[simp] theorem State.setFormat_t2 (s : State) (f : Format) : (s.setFormat f).t2 = s.t2 := rfl
@[simp] theorem State.setFormat_h8 (s : State) (f : Format) : (s.setFormat f).h8 = s.h8 := rfl
@[simp] theorem State.setFormat_rc (s : State) (f : Format) : (s.setFormat f).rc = s.rc := rfl
@[simp] theorem State.setFormat_host (s : State) (f : Format) : (s.setFormat f).host = s.host := rfl
@[simp] theorem State.setFormat_hostData (s : State) (f : Format) : (s.setFormat f).hostData = s.hostData := rfl
@[simp] theorem State.setFormat_ret (s : State) (f : Format) : (s.setFormat f).ret = s.ret := rfl
@[simp] theorem State.setFormat_errors (s : State) (f : Format) : (s.setFormat f).errors = s.errors := rfl
@[simp] theorem State.setFormat_resets (s : State) (f : Format) : (s.setFormat f).resets = s.resets := rfl
@[simp] theorem State.setFormat_cfg (s : State) (f : Format) : (s.setFormat f).cfg = s.cfg := rfl

/-! ### emit -/

@[simp] theorem State.emit_hint (s : State) (b : Byte) : (s.emit b).hint = s.hint := rfl
@[simp] theorem State.emit_inLen (s : State) (b : Byte) : (s.emit b).inLen = s.inLen := rfl
@[simp] theorem State.emit_status (s : State) (b : Byte) : (s.emit b).status = s.status := rfl
@[simp] theorem State.emit_outLen (s : State) (b : Byte) : (s.emit b).outLen = s.outLen := rfl
@[simp] theorem State.emit_inMem (s : State) (b : Byte) : (s.emit b).inMem = s.inMem := rfl
@[simp] theorem State.emit_outMem (s : State) (b : Byte) : (s.emit b).outMem = Memory.write s.oc b s.outMem := rfl
@[simp] theorem State.emit_phase (s : State) (b : Byte) : (s.emit b).phase = s.phase := rfl
@[simp] theorem State.emit_ip (s : State) (b : Byte) : (s.emit b).ip = s.ip := rfl
@[simp] theorem State.emit_br (s : State) (b : Byte) : (s.emit b).br = s.br := rfl
@[simp] theorem State.emit_declared (s : State) (b : Byte) : (s.emit b).declared = s.declared := rfl
@[simp] theorem State.emit_oc (s : State) (b : Byte) : (s.emit b).oc = s.oc + 1 := rfl
@[simp] theorem State.emit_flag (s : State) (b : Byte) : (s.emit b).flag = s.flag := rfl
@[simp] theorem State.emit_fcnt (s : State) (b : Byte) : (s.emit b).fcnt = s.fcnt := rfl
@[simp] theorem State.emit_fmt (s : State) (b : Byte) : (s.emit b).fmt = s.fmt := rfl
@[simp] theorem State.emit_t1 (s : State) (b : Byte) : (s.emit b).t1 = s.t1 := rfl
@[simp] theorem State.emit_t2 (s : State) (b : Byte) : (s.emit b).t2 = s.t2 := rfl
@[simp] theorem State.emit_h8 (s : State) (b : Byte) : (s.emit b).h8 = s.h8 := rfl
@[simp] theorem State.emit_rc (s : State) (b : Byte) : (s.emit b).rc = s.rc := rfl
@[simp] theorem State.emit_host (s : State) (b : Byte) : (s.emit b).host = s.host := rfl
@[simp] theorem State.emit_hostData (s : State) (b : Byte) : (s.emit b).hostData = s.hostData := rfl
@[simp] theorem State.emit_ret (s : State) (b : Byte) : (s.emit b).ret = s.ret := rfl
@[simp] theorem State.emit_errors (s : State) (b : Byte) : (s.emit b).errors = s.errors := rfl
@[simp] theorem State.emit_resets (s : State) (b : Byte) : (s.emit b).resets = s.resets := rfl
@[simp] theorem State.emit_cfg (s : State) (b : Byte) : (s.emit b).cfg = s.cfg := rfl

/-! ### setRet -/

@[simp] theorem State.setRet_hint (s : State) (n : Nat) : (s.setRet n).hint = s.hint := rfl
@[simp] theorem State.setRet_inLen (s : State) (n : Nat) : (s.setRet n).inLen = s.inLen := rfl
@[simp] theorem State.setRet_status (s : State) (n : Nat) : (s.setRet n).status = s.status := rfl
@[simp] theorem State.setRet_outLen (s : State) (n : Nat) : (s.setRet n).outLen = s.outLen := rfl
@[simp] theorem State.setRet_inMem (s : State) (n : Nat) : (s.setRet n).inMem = s.inMem := rfl
@[simp] theorem State.setRet_outMem (s : State) (n : Nat) : (s.setRet n).outMem = s.outMem := rfl
@[simp] theorem State.setRet_phase (s : State) (n : Nat) : (s.setRet n).phase = s.phase := rfl
@[simp] theorem State.setRet_ip (s : State) (n : Nat) : (s.setRet n).ip = s.ip := rfl
@[simp] theorem State.setRet_br (s : State) (n : Nat) : (s.setRet n).br = s.br := rfl
@[simp] theorem State.setRet_declared (s : State) (n : Nat) : (s.setRet n).declared = s.declared := rfl
@[simp] theorem State.setRet_oc (s : State) (n : Nat) : (s.setRet n).oc = s.oc := rfl
@[simp] theorem State.setRet_flag (s : State) (n : Nat) : (s.setRet n).flag = s.flag := rfl
@[simp] theorem State.setRet_fcnt (s : State) (n : Nat) : (s.setRet n).fcnt = s.fcnt := rfl
@[simp] theorem State.setRet_fmt (s : State) (n : Nat) : (s.setRet n).fmt = s.fmt := rfl
@[simp] theorem State.setRet_t1 (s : State) (n : Nat) : (s.setRet n).t1 = s.t1 := rfl
@[simp] theorem State.setRet_t2 (s : State) (n : Nat) : (s.setRet n).t2 = s.t2 := rfl
@[simp] theorem State.setRet_h8 (s : State) (n : Nat) : (s.setRet n).h8 = s.h8 := rfl
@[simp] theorem State.setRet_rc (s : State) (n : Nat) : (s.setRet n).rc = s.rc := rfl
@[simp] theorem State.setRet_host (s : State) (n : Nat) : (s.setRet n).host = s.host := rfl
@[simp] theorem State.setRet_hostData (s : State) (n : Nat) : (s.setRet n).hostData = s.hostData := rfl
@[simp] theorem State.setRet_ret (s : State) (n : Nat) : (s.setRet n).ret = n := rfl
@[simp] theorem State.setRet_errors (s : State) (n : Nat) : (s.setRet n).errors = s.errors := rfl
@[simp] theorem State.setRet_resets (s : State) (n : Nat) : (s.setRet n).resets = s.resets := rfl
@[simp] theorem State.setRet_cfg (s : State) (n : Nat) : (s.setRet n).cfg = s.cfg := rfl

/-! ### raise -/

@[simp] theorem State.raise_hint (s : State) (e : ErrCode) : (s.raise e).hint = s.hint := rfl
@[simp] theorem State.raise_inLen (s : State) (e : ErrCode) : (s.raise e).inLen = s.inLen := rfl
@[simp] theorem State.raise_status (s : State) (e : ErrCode) : (s.raise e).status = s.status.failed e := rfl
@[simp] theorem State.raise_outLen (s : State) (e : ErrCode) : (s.raise e).outLen = s.outLen := rfl
@[simp] theorem State.raise_inMem (s : State) (e : ErrCode) : (s.raise e).inMem = s.inMem := rfl
@[simp] theorem State.raise_outMem (s : State) (e : ErrCode) : (s.raise e).outMem = s.outMem := rfl
@[simp] theorem State.raise_phase (s : State) (e : ErrCode) : (s.raise e).phase = .done := rfl
@[simp] theorem State.raise_ip (s : State) (e : ErrCode) : (s.raise e).ip = (Config.engineAfterError s.errors).ip := rfl
@[simp] theorem State.raise_br (s : State) (e : ErrCode) : (s.raise e).br = (Config.engineAfterError s.errors).br := rfl
@[simp] theorem State.raise_declared (s : State) (e : ErrCode) : (s.raise e).declared = (Config.engineAfterError s.errors).declared := rfl
@[simp] theorem State.raise_oc (s : State) (e : ErrCode) : (s.raise e).oc = (Config.engineAfterError s.errors).oc := rfl
@[simp] theorem State.raise_flag (s : State) (e : ErrCode) : (s.raise e).flag = (Config.engineAfterError s.errors).flag := rfl
@[simp] theorem State.raise_fcnt (s : State) (e : ErrCode) : (s.raise e).fcnt = (Config.engineAfterError s.errors).fcnt := rfl
@[simp] theorem State.raise_fmt (s : State) (e : ErrCode) : (s.raise e).fmt = (Config.engineAfterError s.errors).fmt := rfl
@[simp] theorem State.raise_t1 (s : State) (e : ErrCode) : (s.raise e).t1 = (Config.engineAfterError s.errors).t1 := rfl
@[simp] theorem State.raise_t2 (s : State) (e : ErrCode) : (s.raise e).t2 = (Config.engineAfterError s.errors).t2 := rfl
@[simp] theorem State.raise_h8 (s : State) (e : ErrCode) : (s.raise e).h8 = (Config.engineAfterError s.errors).h8 := rfl
@[simp] theorem State.raise_rc (s : State) (e : ErrCode) : (s.raise e).rc = (Config.engineAfterError s.errors).rc := rfl
@[simp] theorem State.raise_host (s : State) (e : ErrCode) : (s.raise e).host = s.host := rfl
@[simp] theorem State.raise_hostData (s : State) (e : ErrCode) : (s.raise e).hostData = s.hostData := rfl
@[simp] theorem State.raise_ret (s : State) (e : ErrCode) : (s.raise e).ret = s.ret := rfl
@[simp] theorem State.raise_errors (s : State) (e : ErrCode) : (s.raise e).errors = s.errors + 1 := rfl
@[simp] theorem State.raise_resets (s : State) (e : ErrCode) : (s.raise e).resets = s.resets := rfl
@[simp] theorem State.raise_cfg (s : State) (e : ErrCode) : (s.raise e).cfg = s.cfg := rfl

/-! ### complete -/

@[simp] theorem State.complete_hint (s : State) : s.complete.hint = s.hint := rfl
@[simp] theorem State.complete_inLen (s : State) : s.complete.inLen = s.inLen := rfl
@[simp] theorem State.complete_status (s : State) : s.complete.status = s.status.succeeded := rfl
@[simp] theorem State.complete_outLen (s : State) : s.complete.outLen = s.outLen := rfl
@[simp] theorem State.complete_inMem (s : State) : s.complete.inMem = s.inMem := rfl
@[simp] theorem State.complete_outMem (s : State) : s.complete.outMem = s.outMem := rfl
@[simp] theorem State.complete_phase (s : State) : s.complete.phase = .done := rfl
@[simp] theorem State.complete_ip (s : State) : s.complete.ip = s.ip := rfl
@[simp] theorem State.complete_br (s : State) : s.complete.br = s.br := rfl
@[simp] theorem State.complete_declared (s : State) : s.complete.declared = s.declared := rfl
@[simp] theorem State.complete_oc (s : State) : s.complete.oc = s.oc := rfl
@[simp] theorem State.complete_flag (s : State) : s.complete.flag = s.flag := rfl
@[simp] theorem State.complete_fcnt (s : State) : s.complete.fcnt = s.fcnt := rfl
@[simp] theorem State.complete_fmt (s : State) : s.complete.fmt = s.fmt := rfl
@[simp] theorem State.complete_t1 (s : State) : s.complete.t1 = s.t1 := rfl
@[simp] theorem State.complete_t2 (s : State) : s.complete.t2 = s.t2 := rfl
@[simp] theorem State.complete_h8 (s : State) : s.complete.h8 = s.h8 := rfl
@[simp] theorem State.complete_rc (s : State) : s.complete.rc = s.rc := rfl
@[simp] theorem State.complete_host (s : State) : s.complete.host = s.host := rfl
@[simp] theorem State.complete_hostData (s : State) : s.complete.hostData = s.hostData := rfl
@[simp] theorem State.complete_ret (s : State) : s.complete.ret = s.ret := rfl
@[simp] theorem State.complete_errors (s : State) : s.complete.errors = s.errors := rfl
@[simp] theorem State.complete_resets (s : State) : s.complete.resets = s.resets := rfl
@[simp] theorem State.complete_cfg (s : State) : s.complete.cfg = s.cfg := rfl

/-! ### start -/

@[simp] theorem State.start_hint (s : State) : s.start.hint = s.hint := rfl
@[simp] theorem State.start_inLen (s : State) : s.start.inLen = s.inLen := rfl
@[simp] theorem State.start_status (s : State) : s.start.status = Status.started := rfl
@[simp] theorem State.start_outLen (s : State) : s.start.outLen = 0 := rfl
@[simp] theorem State.start_inMem (s : State) : s.start.inMem = s.inMem := rfl
@[simp] theorem State.start_outMem (s : State) : s.start.outMem = s.outMem := rfl
@[simp] theorem State.start_phase (s : State) : s.start.phase = .dispatch := rfl
@[simp] theorem State.start_ip (s : State) : s.start.ip = 0 := rfl
@[simp] theorem State.start_br (s : State) : s.start.br = none := rfl
@[simp] theorem State.start_declared (s : State) : s.start.declared = 0 := rfl
@[simp] theorem State.start_oc (s : State) : s.start.oc = 0 := rfl
@[simp] theorem State.start_flag (s : State) : s.start.flag = 0 := rfl
@[simp] theorem State.start_fcnt (s : State) : s.start.fcnt = 0 := rfl
@[simp] theorem State.start_fmt (s : State) : s.start.fmt = 0 := rfl
@[simp] theorem State.start_t1 (s : State) : s.start.t1 = {} := rfl
@[simp] theorem State.start_t2 (s : State) : s.start.t2 = {} := rfl
@[simp] theorem State.start_h8 (s : State) : s.start.h8 = {} := rfl
@[simp] theorem State.start_rc (s : State) : s.start.rc = {} := rfl
@[simp] theorem State.start_host (s : State) : s.start.host = s.host := rfl
@[simp] theorem State.start_hostData (s : State) : s.start.hostData = s.hostData := rfl
@[simp] theorem State.start_ret (s : State) : s.start.ret = s.ret := rfl
@[simp] theorem State.start_errors (s : State) : s.start.errors = s.errors := rfl
@[simp] theorem State.start_resets (s : State) : s.start.resets = s.resets := rfl
@[simp] theorem State.start_cfg (s : State) : s.start.cfg = s.cfg := rfl

/-! ### withIn -/

@[simp] theorem State.withIn_hint (s : State) (m : Memory) : (s.withIn m).hint = s.hint := rfl
@[simp] theorem State.withIn_inLen (s : State) (m : Memory) : (s.withIn m).inLen = s.inLen := rfl
@[simp] theorem State.withIn_status (s : State) (m : Memory) : (s.withIn m).status = s.status := rfl
@[simp] theorem State.withIn_outLen (s : State) (m : Memory) : (s.withIn m).outLen = s.outLen := rfl
@[simp] theorem State.withIn_inMem (s : State) (m : Memory) : (s.withIn m).inMem = m := rfl
@[simp] theorem State.withIn_outMem (s : State) (m : Memory) : (s.withIn m).outMem = s.outMem := rfl
@[simp] theorem State.withIn_phase (s : State) (m : Memory) : (s.withIn m).phase = s.phase := rfl
@[simp] theorem State.withIn_ip (s : State) (m : Memory) : (s.withIn m).ip = s.ip := rfl
@[simp] theorem State.withIn_br (s : State) (m : Memory) : (s.withIn m).br = s.br := rfl
@[simp] theorem State.withIn_declared (s : State) (m : Memory) : (s.withIn m).declared = s.declared := rfl
@[simp] theorem State.withIn_oc (s : State) (m : Memory) : (s.withIn m).oc = s.oc := rfl
@[simp] theorem State.withIn_flag (s : State) (m : Memory) : (s.withIn m).flag = s.flag := rfl
@[simp] theorem State.withIn_fcnt (s : State) (m : Memory) : (s.withIn m).fcnt = s.fcnt := rfl
@[simp] theorem State.withIn_fmt (s : State) (m : Memory) : (s.withIn m).fmt = s.fmt := rfl
@[simp] theorem State.withIn_t1 (s : State) (m : Memory) : (s.withIn m).t1 = s.t1 := rfl
@[simp] theorem State.withIn_t2 (s : State) (m : Memory) : (s.withIn m).t2 = s.t2 := rfl
@[simp] theorem State.withIn_h8 (s : State) (m : Memory) : (s.withIn m).h8 = s.h8 := rfl
@[simp] theorem State.withIn_rc (s : State) (m : Memory) : (s.withIn m).rc = s.rc := rfl
@[simp] theorem State.withIn_host (s : State) (m : Memory) : (s.withIn m).host = s.host := rfl
@[simp] theorem State.withIn_hostData (s : State) (m : Memory) : (s.withIn m).hostData = s.hostData := rfl
@[simp] theorem State.withIn_ret (s : State) (m : Memory) : (s.withIn m).ret = s.ret := rfl
@[simp] theorem State.withIn_errors (s : State) (m : Memory) : (s.withIn m).errors = s.errors := rfl
@[simp] theorem State.withIn_resets (s : State) (m : Memory) : (s.withIn m).resets = s.resets := rfl
@[simp] theorem State.withIn_cfg (s : State) (m : Memory) : (s.withIn m).cfg = s.cfg := rfl

/-! ### setTable -/

@[simp] theorem State.setTable_hint (s : State) (t : TableId) (x : Table) : (s.setTable t x).hint = s.hint := by cases t <;> rfl
@[simp] theorem State.setTable_inLen (s : State) (t : TableId) (x : Table) : (s.setTable t x).inLen = s.inLen := by cases t <;> rfl
@[simp] theorem State.setTable_status (s : State) (t : TableId) (x : Table) : (s.setTable t x).status = s.status := by cases t <;> rfl
@[simp] theorem State.setTable_outLen (s : State) (t : TableId) (x : Table) : (s.setTable t x).outLen = s.outLen := by cases t <;> rfl
@[simp] theorem State.setTable_inMem (s : State) (t : TableId) (x : Table) : (s.setTable t x).inMem = s.inMem := by cases t <;> rfl
@[simp] theorem State.setTable_outMem (s : State) (t : TableId) (x : Table) : (s.setTable t x).outMem = s.outMem := by cases t <;> rfl
@[simp] theorem State.setTable_phase (s : State) (t : TableId) (x : Table) : (s.setTable t x).phase = s.phase := by cases t <;> rfl
@[simp] theorem State.setTable_ip (s : State) (t : TableId) (x : Table) : (s.setTable t x).ip = s.ip := by cases t <;> rfl
@[simp] theorem State.setTable_br (s : State) (t : TableId) (x : Table) : (s.setTable t x).br = s.br := by cases t <;> rfl
@[simp] theorem State.setTable_declared (s : State) (t : TableId) (x : Table) : (s.setTable t x).declared = s.declared := by cases t <;> rfl
@[simp] theorem State.setTable_oc (s : State) (t : TableId) (x : Table) : (s.setTable t x).oc = s.oc := by cases t <;> rfl
@[simp] theorem State.setTable_flag (s : State) (t : TableId) (x : Table) : (s.setTable t x).flag = s.flag := by cases t <;> rfl
@[simp] theorem State.setTable_fcnt (s : State) (t : TableId) (x : Table) : (s.setTable t x).fcnt = s.fcnt := by cases t <;> rfl
@[simp] theorem State.setTable_fmt (s : State) (t : TableId) (x : Table) : (s.setTable t x).fmt = s.fmt := by cases t <;> rfl
@[simp] theorem State.setTable_h8 (s : State) (t : TableId) (x : Table) : (s.setTable t x).h8 = s.h8 := by cases t <;> rfl
@[simp] theorem State.setTable_rc (s : State) (t : TableId) (x : Table) : (s.setTable t x).rc = s.rc := by cases t <;> rfl
@[simp] theorem State.setTable_host (s : State) (t : TableId) (x : Table) : (s.setTable t x).host = s.host := by cases t <;> rfl
@[simp] theorem State.setTable_hostData (s : State) (t : TableId) (x : Table) : (s.setTable t x).hostData = s.hostData := by cases t <;> rfl
@[simp] theorem State.setTable_ret (s : State) (t : TableId) (x : Table) : (s.setTable t x).ret = s.ret := by cases t <;> rfl
@[simp] theorem State.setTable_errors (s : State) (t : TableId) (x : Table) : (s.setTable t x).errors = s.errors := by cases t <;> rfl
@[simp] theorem State.setTable_resets (s : State) (t : TableId) (x : Table) : (s.setTable t x).resets = s.resets := by cases t <;> rfl
@[simp] theorem State.setTable_cfg (s : State) (t : TableId) (x : Table) : (s.setTable t x).cfg = s.cfg := by cases t <;> rfl
@[simp] theorem State.table_setTable (s : State) (t : TableId) (x : Table) : (s.setTable t x).table t = x := by
  cases t <;> rfl
@[simp] theorem State.table_t1 (s : State) : s.table .t1 = s.t1 := rfl
@[simp] theorem State.table_t2 (s : State) : s.table .t2 = s.t2 := rfl
@[simp] theorem State.setTable_t1 (s : State) (x : Table) : s.setTable .t1 x = { s with t1 := x } := rfl
@[simp] theorem State.setTable_t2 (s : State) (x : Table) : s.setTable .t2 x = { s with t2 := x } := rfl
/-- Writing one table keeps the other. -/
theorem State.table_setTable_ne (s : State) {t u : TableId} (x : Table) (h : u ≠ t) :
    (s.setTable t x).table u = s.table u := by
  cases t <;> cases u <;> first | rfl | exact absurd rfl h

/-! ### copyBytes and emitAll: only OUT and the cursor change -/

@[simp] theorem State.copyBytes_hint (n d : Nat) (s : State) : (State.copyBytes n d s).hint = s.hint := by
  induction n generalizing s with
  | zero => rfl
  | succ n ih => simp [State.copyBytes, ih]
@[simp] theorem State.emitAll_hint (bs : List Byte) (s : State) : (State.emitAll bs s).hint = s.hint := by
  induction bs generalizing s with
  | nil => rfl
  | cons b bs ih => simp [State.emitAll, ih]
@[simp] theorem State.copyBytes_inLen (n d : Nat) (s : State) : (State.copyBytes n d s).inLen = s.inLen := by
  induction n generalizing s with
  | zero => rfl
  | succ n ih => simp [State.copyBytes, ih]
@[simp] theorem State.emitAll_inLen (bs : List Byte) (s : State) : (State.emitAll bs s).inLen = s.inLen := by
  induction bs generalizing s with
  | nil => rfl
  | cons b bs ih => simp [State.emitAll, ih]
@[simp] theorem State.copyBytes_status (n d : Nat) (s : State) : (State.copyBytes n d s).status = s.status := by
  induction n generalizing s with
  | zero => rfl
  | succ n ih => simp [State.copyBytes, ih]
@[simp] theorem State.emitAll_status (bs : List Byte) (s : State) : (State.emitAll bs s).status = s.status := by
  induction bs generalizing s with
  | nil => rfl
  | cons b bs ih => simp [State.emitAll, ih]
@[simp] theorem State.copyBytes_outLen (n d : Nat) (s : State) : (State.copyBytes n d s).outLen = s.outLen := by
  induction n generalizing s with
  | zero => rfl
  | succ n ih => simp [State.copyBytes, ih]
@[simp] theorem State.emitAll_outLen (bs : List Byte) (s : State) : (State.emitAll bs s).outLen = s.outLen := by
  induction bs generalizing s with
  | nil => rfl
  | cons b bs ih => simp [State.emitAll, ih]
@[simp] theorem State.copyBytes_inMem (n d : Nat) (s : State) : (State.copyBytes n d s).inMem = s.inMem := by
  induction n generalizing s with
  | zero => rfl
  | succ n ih => simp [State.copyBytes, ih]
@[simp] theorem State.emitAll_inMem (bs : List Byte) (s : State) : (State.emitAll bs s).inMem = s.inMem := by
  induction bs generalizing s with
  | nil => rfl
  | cons b bs ih => simp [State.emitAll, ih]
@[simp] theorem State.copyBytes_phase (n d : Nat) (s : State) : (State.copyBytes n d s).phase = s.phase := by
  induction n generalizing s with
  | zero => rfl
  | succ n ih => simp [State.copyBytes, ih]
@[simp] theorem State.emitAll_phase (bs : List Byte) (s : State) : (State.emitAll bs s).phase = s.phase := by
  induction bs generalizing s with
  | nil => rfl
  | cons b bs ih => simp [State.emitAll, ih]
@[simp] theorem State.copyBytes_ip (n d : Nat) (s : State) : (State.copyBytes n d s).ip = s.ip := by
  induction n generalizing s with
  | zero => rfl
  | succ n ih => simp [State.copyBytes, ih]
@[simp] theorem State.emitAll_ip (bs : List Byte) (s : State) : (State.emitAll bs s).ip = s.ip := by
  induction bs generalizing s with
  | nil => rfl
  | cons b bs ih => simp [State.emitAll, ih]
@[simp] theorem State.copyBytes_br (n d : Nat) (s : State) : (State.copyBytes n d s).br = s.br := by
  induction n generalizing s with
  | zero => rfl
  | succ n ih => simp [State.copyBytes, ih]
@[simp] theorem State.emitAll_br (bs : List Byte) (s : State) : (State.emitAll bs s).br = s.br := by
  induction bs generalizing s with
  | nil => rfl
  | cons b bs ih => simp [State.emitAll, ih]
@[simp] theorem State.copyBytes_declared (n d : Nat) (s : State) : (State.copyBytes n d s).declared = s.declared := by
  induction n generalizing s with
  | zero => rfl
  | succ n ih => simp [State.copyBytes, ih]
@[simp] theorem State.emitAll_declared (bs : List Byte) (s : State) : (State.emitAll bs s).declared = s.declared := by
  induction bs generalizing s with
  | nil => rfl
  | cons b bs ih => simp [State.emitAll, ih]
@[simp] theorem State.copyBytes_flag (n d : Nat) (s : State) : (State.copyBytes n d s).flag = s.flag := by
  induction n generalizing s with
  | zero => rfl
  | succ n ih => simp [State.copyBytes, ih]
@[simp] theorem State.emitAll_flag (bs : List Byte) (s : State) : (State.emitAll bs s).flag = s.flag := by
  induction bs generalizing s with
  | nil => rfl
  | cons b bs ih => simp [State.emitAll, ih]
@[simp] theorem State.copyBytes_fcnt (n d : Nat) (s : State) : (State.copyBytes n d s).fcnt = s.fcnt := by
  induction n generalizing s with
  | zero => rfl
  | succ n ih => simp [State.copyBytes, ih]
@[simp] theorem State.emitAll_fcnt (bs : List Byte) (s : State) : (State.emitAll bs s).fcnt = s.fcnt := by
  induction bs generalizing s with
  | nil => rfl
  | cons b bs ih => simp [State.emitAll, ih]
@[simp] theorem State.copyBytes_fmt (n d : Nat) (s : State) : (State.copyBytes n d s).fmt = s.fmt := by
  induction n generalizing s with
  | zero => rfl
  | succ n ih => simp [State.copyBytes, ih]
@[simp] theorem State.emitAll_fmt (bs : List Byte) (s : State) : (State.emitAll bs s).fmt = s.fmt := by
  induction bs generalizing s with
  | nil => rfl
  | cons b bs ih => simp [State.emitAll, ih]
@[simp] theorem State.copyBytes_t1 (n d : Nat) (s : State) : (State.copyBytes n d s).t1 = s.t1 := by
  induction n generalizing s with
  | zero => rfl
  | succ n ih => simp [State.copyBytes, ih]
@[simp] theorem State.emitAll_t1 (bs : List Byte) (s : State) : (State.emitAll bs s).t1 = s.t1 := by
  induction bs generalizing s with
  | nil => rfl
  | cons b bs ih => simp [State.emitAll, ih]
@[simp] theorem State.copyBytes_t2 (n d : Nat) (s : State) : (State.copyBytes n d s).t2 = s.t2 := by
  induction n generalizing s with
  | zero => rfl
  | succ n ih => simp [State.copyBytes, ih]
@[simp] theorem State.emitAll_t2 (bs : List Byte) (s : State) : (State.emitAll bs s).t2 = s.t2 := by
  induction bs generalizing s with
  | nil => rfl
  | cons b bs ih => simp [State.emitAll, ih]
@[simp] theorem State.copyBytes_h8 (n d : Nat) (s : State) : (State.copyBytes n d s).h8 = s.h8 := by
  induction n generalizing s with
  | zero => rfl
  | succ n ih => simp [State.copyBytes, ih]
@[simp] theorem State.emitAll_h8 (bs : List Byte) (s : State) : (State.emitAll bs s).h8 = s.h8 := by
  induction bs generalizing s with
  | nil => rfl
  | cons b bs ih => simp [State.emitAll, ih]
@[simp] theorem State.copyBytes_rc (n d : Nat) (s : State) : (State.copyBytes n d s).rc = s.rc := by
  induction n generalizing s with
  | zero => rfl
  | succ n ih => simp [State.copyBytes, ih]
@[simp] theorem State.emitAll_rc (bs : List Byte) (s : State) : (State.emitAll bs s).rc = s.rc := by
  induction bs generalizing s with
  | nil => rfl
  | cons b bs ih => simp [State.emitAll, ih]
@[simp] theorem State.copyBytes_host (n d : Nat) (s : State) : (State.copyBytes n d s).host = s.host := by
  induction n generalizing s with
  | zero => rfl
  | succ n ih => simp [State.copyBytes, ih]
@[simp] theorem State.emitAll_host (bs : List Byte) (s : State) : (State.emitAll bs s).host = s.host := by
  induction bs generalizing s with
  | nil => rfl
  | cons b bs ih => simp [State.emitAll, ih]
@[simp] theorem State.copyBytes_hostData (n d : Nat) (s : State) : (State.copyBytes n d s).hostData = s.hostData := by
  induction n generalizing s with
  | zero => rfl
  | succ n ih => simp [State.copyBytes, ih]
@[simp] theorem State.emitAll_hostData (bs : List Byte) (s : State) : (State.emitAll bs s).hostData = s.hostData := by
  induction bs generalizing s with
  | nil => rfl
  | cons b bs ih => simp [State.emitAll, ih]
@[simp] theorem State.copyBytes_ret (n d : Nat) (s : State) : (State.copyBytes n d s).ret = s.ret := by
  induction n generalizing s with
  | zero => rfl
  | succ n ih => simp [State.copyBytes, ih]
@[simp] theorem State.emitAll_ret (bs : List Byte) (s : State) : (State.emitAll bs s).ret = s.ret := by
  induction bs generalizing s with
  | nil => rfl
  | cons b bs ih => simp [State.emitAll, ih]
@[simp] theorem State.copyBytes_errors (n d : Nat) (s : State) : (State.copyBytes n d s).errors = s.errors := by
  induction n generalizing s with
  | zero => rfl
  | succ n ih => simp [State.copyBytes, ih]
@[simp] theorem State.emitAll_errors (bs : List Byte) (s : State) : (State.emitAll bs s).errors = s.errors := by
  induction bs generalizing s with
  | nil => rfl
  | cons b bs ih => simp [State.emitAll, ih]
@[simp] theorem State.copyBytes_resets (n d : Nat) (s : State) : (State.copyBytes n d s).resets = s.resets := by
  induction n generalizing s with
  | zero => rfl
  | succ n ih => simp [State.copyBytes, ih]
@[simp] theorem State.emitAll_resets (bs : List Byte) (s : State) : (State.emitAll bs s).resets = s.resets := by
  induction bs generalizing s with
  | nil => rfl
  | cons b bs ih => simp [State.emitAll, ih]
@[simp] theorem State.copyBytes_cfg (n d : Nat) (s : State) : (State.copyBytes n d s).cfg = s.cfg := by
  induction n generalizing s with
  | zero => rfl
  | succ n ih => simp [State.copyBytes, ih]
@[simp] theorem State.emitAll_cfg (bs : List Byte) (s : State) : (State.emitAll bs s).cfg = s.cfg := by
  induction bs generalizing s with
  | nil => rfl
  | cons b bs ih => simp [State.emitAll, ih]

/-- A copy moves the cursor by its length. -/
@[simp] theorem State.copyBytes_oc (n d : Nat) (s : State) : (State.copyBytes n d s).oc = s.oc + n := by
  induction n generalizing s with
  | zero => rfl
  | succ n ih => simp [State.copyBytes, ih]; omega

/-- Bytes written move the cursor by their number. -/
@[simp] theorem State.emitAll_oc (bs : List Byte) (s : State) : (State.emitAll bs s).oc = s.oc + bs.length := by
  induction bs generalizing s with
  | nil => rfl
  | cons b bs ih => simp [State.emitAll, ih]; omega

end Sys2Proof.Machine
end

