-- ==== Sys2Proof/Laws/Memory.lean ====
section
/-! SUPPORT. The laws of the byte memories: read after write, and the canonical form. -/

namespace Sys2Proof.Machine

/-- A byte just written is read back. -/
@[simp] theorem Memory.read_write_same (a : Nat) (b : Byte) (m : Memory) :
    Memory.read a (Memory.write a b m) = some b := by
  induction m with
  | nil => simp [Memory.write, Memory.read]
  | cons p m ih =>
    obtain ⟨k, c⟩ := p
    unfold Memory.write
    split
    · simp [Memory.read]
    · split
      · simp [Memory.read]
      · rename_i h1 h2
        simp [Memory.read, h2, h1, ih]

/-- A write leaves every other address alone. -/
theorem Memory.read_write_other {a a' : Nat} (b : Byte) (m : Memory) (h : a' ≠ a) :
    Memory.read a' (Memory.write a b m) = Memory.read a' m := by
  induction m with
  | nil => simp [Memory.write, Memory.read, Ne.symm h]
  | cons p m ih =>
    obtain ⟨k, c⟩ := p
    unfold Memory.write
    split
    · rename_i h1
      simp only [Memory.read, Ne.symm h, if_false]
      split
      · rw [if_neg (by omega), if_pos (by omega)]
      · rfl
    · split
      · rename_i h1 h2
        subst h2
        simp [Memory.read, Ne.symm h]
      · simp [Memory.read, ih]

/-- The addresses a write lists are the old ones and the written one. -/
theorem Memory.mem_write {a : Nat} {b : Byte} {m : Memory} {p : Host.Cell} (h : p ∈ Memory.write a b m) :
    p = (a, b) ∨ p ∈ m := by
  induction m with
  | nil => simpa [Memory.write] using h
  | cons q m ih =>
    obtain ⟨k, c⟩ := q
    unfold Memory.write at h
    split at h
    · simpa using h
    · split at h
      · rcases List.mem_cons.mp h with h | h
        · exact .inl h
        · exact .inr (List.mem_cons_of_mem _ h)
      · rcases List.mem_cons.mp h with h | h
        · exact .inr (h ▸ List.mem_cons_self)
        · rcases ih h with h | h
          · exact .inl h
          · exact .inr (List.mem_cons_of_mem _ h)

/-- A write keeps the canonical form. -/
theorem Memory.write_wf (a : Nat) (b : Byte) {m : Memory} (h : Memory.wf m) : Memory.wf (Memory.write a b m) := by
  induction m with
  | nil => simp [Memory.write, Memory.wf]
  | cons q m ih =>
    obtain ⟨k, c⟩ := q
    obtain ⟨h1, h2⟩ := List.pairwise_cons.mp h
    unfold Memory.write
    split
    · rename_i hlt
      refine List.pairwise_cons.mpr ⟨fun p hp => ?_, h⟩
      rcases List.mem_cons.mp hp with hp | hp
      · subst hp; exact hlt
      · exact Nat.lt_trans hlt (h1 p hp)
    · split
      · rename_i heq
        subst heq
        exact List.pairwise_cons.mpr ⟨h1, h2⟩
      · rename_i hlt hne
        refine List.pairwise_cons.mpr ⟨fun p hp => ?_, ih h2⟩
        rcases Memory.mem_write hp with hp | hp
        · subst hp; simp only; omega
        · exact h1 p hp

/-- The empty memory is in canonical form: reset's memories are. -/
theorem Memory.wf_nil : Memory.wf [] := List.Pairwise.nil

/-- The byte just written to OUT is read back. -/
@[simp] theorem State.outByte_emit_same (s : State) (b : Byte) : (s.emit b).outByte s.oc = b := by
  simp [State.outByte]

/-- A write to OUT leaves every other address alone. -/
theorem State.outByte_emit_other (s : State) (b : Byte) {a : Nat} (h : a ≠ s.oc) :
    (s.emit b).outByte a = s.outByte a := by
  simp [State.outByte, Memory.read_write_other b s.outMem h]

/-- A write keeps OUT in canonical form. -/
theorem State.emit_outWf (s : State) (b : Byte) (h : Memory.wf s.outMem) : Memory.wf (s.emit b).outMem :=
  Memory.write_wf _ _ h

/-- A copy keeps OUT in canonical form. -/
theorem State.copyBytes_outWf (n d : Nat) (s : State) (h : Memory.wf s.outMem) :
    Memory.wf (State.copyBytes n d s).outMem := by
  induction n generalizing s with
  | zero => exact h
  | succ n ih => exact ih _ (s.emit_outWf _ h)

/-- Bytes written in order keep OUT in canonical form. -/
theorem State.emitAll_outWf (bs : List Byte) (s : State) (h : Memory.wf s.outMem) :
    Memory.wf (State.emitAll bs s).outMem := by
  induction bs generalizing s with
  | nil => exact h
  | cons b bs ih => exact ih _ (s.emit_outWf _ h)

/-- The bytes MemRead delivers are as many as asked for. -/
@[simp] theorem State.inBytes_length (s : State) (a n : Nat) : (s.inBytes a n).length = n := by
  induction n generalizing a with
  | zero => rfl
  | succ n ih => simp [State.inBytes, ih]

/-- The bytes MemRead delivers depend on the contents of IN alone. -/
theorem State.inBytes_congr {s t : State} (h : ∀ a, s.inByte a = t.inByte a) (a n : Nat) :
    s.inBytes a n = t.inBytes a n := by
  induction n generalizing a with
  | zero => rfl
  | succ n ih => simp [State.inBytes, h, ih]

end Sys2Proof.Machine
end

