-- ==== Sys2Proof/Laws/Ops.lean ====
section
/-! SUPPORT. How pseudocode composes, and for each shared operation one lemma that says what it does when it answers. -/

namespace Sys2Proof.Machine

variable {α β : Type}

/-! ### Composition -/

@[simp] theorem Op.pure_apply (a : α) (s : State) : (pure a : Op α) s = .ok a s := rfl

@[simp] theorem Op.bind_apply (x : Op α) (f : α → Op β) (s : State) :
    (x >>= f) s = match x s with
      | .ok a t => f a t
      | .error e t => .error e t := by
  show EStateM.bind x f s = _
  unfold EStateM.bind
  cases x s <;> rfl

@[simp] theorem Op.map_apply (g : α → β) (x : Op α) (s : State) :
    (g <$> x) s = match x s with
      | .ok a t => .ok (g a) t
      | .error e t => .error e t := by
  show EStateM.map g x s = _
  unfold EStateM.map
  cases x s <;> rfl

@[simp] theorem Op.get_apply (s : State) : (get : Op State) s = .ok s s := rfl

@[simp] theorem raised_apply (e : ErrCode) (s : State) : (raised e : Op α) s = .error (.error e) s := rfl

@[simp] theorem faulted_apply (f : Fault) (s : State) : (faulted f : Op α) s = .error (.fault f) s := rfl

@[simp] theorem update_apply (f : State → State) (s : State) : update f s = .ok () (f s) := rfl

/-- An operation in two parts answers only if both do. -/
theorem Op.bind_ok {x : Op α} {f : α → Op β} {s u : State} {b : β} :
    (x >>= f) s = .ok b u ↔ ∃ a t, x s = .ok a t ∧ f a t = .ok b u := by
  rw [Op.bind_apply]
  cases x s with
  | ok a t => exact ⟨fun h => ⟨a, t, rfl, h⟩, fun ⟨_, _, h, h'⟩ => by cases h; exact h'⟩
  | error e t => exact ⟨nofun, fun ⟨_, _, h, _⟩ => by cases h⟩

/-- The state an operation leaves, whether it answers or stops. -/
def Op.after (op : Op α) (s : State) : State :=
  match op s with
  | .ok _ t => t
  | .error _ t => t

/-- An operation's effect on the state, whether it answers or stops, stays within a relation. -/
def Op.Keeps (R : State → State → Prop) (op : Op α) : Prop := ∀ s, R s (op.after s)

section Keeps
variable {R : State → State → Prop}

theorem Op.Keeps.pure (h : ∀ s, R s s) (a : α) : Op.Keeps R (Pure.pure a : Op α) := h

theorem Op.Keeps.get (h : ∀ s, R s s) : Op.Keeps R (MonadState.get : Op State) := h

theorem Op.Keeps.raised (h : ∀ s, R s s) (e : ErrCode) : Op.Keeps R (raised e : Op α) := h

theorem Op.Keeps.faulted (h : ∀ s, R s s) (f : Fault) : Op.Keeps R (faulted f : Op α) := h

theorem Op.Keeps.update {f : State → State} (h : ∀ s, R s (f s)) : Op.Keeps R (update f) := h

/-- Two parts that stay within a transitive relation do so together. -/
theorem Op.Keeps.bind (ht : ∀ s t u, R s t → R t u → R s u) {x : Op α} {f : α → Op β}
    (hx : Op.Keeps R x) (hf : ∀ a, Op.Keeps R (f a)) : Op.Keeps R (x >>= f) := by
  intro s
  have h1 := hx s
  simp only [Op.after, Op.bind_apply] at h1 ⊢
  cases h : x s with
  | error e t => simpa [h] using h1
  | ok a t =>
    rw [h] at h1
    exact ht _ _ _ h1 (hf a t)

end Keeps

/-! ### Outcomes -/

/-- What an operation that returns nothing can do: go on, or take an error. -/
theorem runOp_next {op : Op Unit} {s t : State} (h : runOp op s = .next t) :
    op s = .ok () t ∨ ∃ e u, op s = .error (.error e) u ∧ t = u.raise e := by
  unfold runOp at h
  cases hop : op s with
  | ok a u => rw [hop] at h; cases h; exact .inl rfl
  | error e u =>
    rw [hop] at h
    cases e with
    | error e => cases h; exact .inr ⟨e, u, rfl, rfl⟩
    | fault f => exact nomatch h

/-- What a sub-operation run by itself can do: hand back a value, or take an error. -/
theorem runValue_next {op : Op Nat} {s t : State} (h : runValue op s = .next t) :
    (∃ v u, op s = .ok v u ∧ t = u.setRet v) ∨ ∃ e u, op s = .error (.error e) u ∧ t = u.raise e := by
  unfold runValue at h
  cases hop : op s with
  | ok a u => rw [hop] at h; cases h; exact .inl ⟨a, u, rfl, rfl⟩
  | error e u =>
    rw [hop] at h
    cases e with
    | error e => cases h; exact .inr ⟨e, u, rfl, rfl⟩
    | fault f => exact nomatch h

/-- An operation that answers goes on. -/
theorem runOp_of_ok {op : Op Unit} {s t : State} (h : op s = .ok () t) : runOp op s = .next t := by
  unfold runOp; rw [h]

/-- An operation that raises takes the error. -/
theorem runOp_of_error {op : Op Unit} {s t : State} {e : ErrCode} (h : op s = .error (.error e) t) :
    runOp op s = .next (t.raise e) := by
  unfold runOp; rw [h]

/-- A sub-operation that answers hands back its value. -/
theorem runValue_of_ok {op : Op Nat} {s t : State} {v : Nat} (h : op s = .ok v t) :
    runValue op s = .next (t.setRet v) := by
  unfold runValue; rw [h]

/-- A sub-operation that raises takes the error. -/
theorem runValue_of_error {op : Op Nat} {s t : State} {e : ErrCode} (h : op s = .error (.error e) t) :
    runValue op s = .next (t.raise e) := by
  unfold runValue; rw [h]

/-! ### Shared operations -/

/-- MemRead within IN_LEN and the memory delivers the bytes and changes nothing (rule R9). -/
theorem memRead_of_le {s : State} {a n : Nat} (hc : s.inCovered) (h : a + n ≤ s.inLen.toNat) :
    memRead a n s = .ok (s.inBytes a n) s := by
  unfold memRead
  rw [if_neg (by omega), if_neg]
  intro hany
  obtain ⟨c, hc', hlt⟩ := Option.any_eq_true .. |>.mp hany
  have := hc c hc'
  simp at hlt
  omega

/-- MemRead past IN_LEN raises TruncatedInput and changes nothing (rules R9, R33). -/
theorem memRead_of_lt {s : State} {a n : Nat} (h : s.inLen.toNat < a + n) :
    memRead a n s = .error (.error .truncatedInput) s := by
  unfold memRead; rw [if_pos h]

/-- All MemRead can do: it never changes the state. -/
theorem memRead_cases (s : State) (a n : Nat) :
    memRead a n s = .error (.error .truncatedInput) s ∨ memRead a n s = .error (.fault .noSuchInAddress) s ∨
      (a + n ≤ s.inLen.toNat ∧ memRead a n s = .ok (s.inBytes a n) s) := by
  unfold memRead
  split
  · exact .inl rfl
  · split
    · exact .inr (.inl rfl)
    · exact .inr (.inr ⟨by omega, rfl⟩)

/-- Bytes taken at the cursor move it past them. -/
theorem takeBytes_of_le {s : State} {n : Nat} (hc : s.inCovered) (h : s.ip + n ≤ s.inLen.toNat) :
    takeBytes n s = .ok (s.inBytes s.ip n) (s.setIp (s.ip + n)) := by
  simp [takeBytes, memRead_of_le hc h]

/-- A byte is written while the output is open. -/
theorem emitByte_of_lt {s : State} (b : Byte) (h : s.oc < s.declared) : emitByte b s = .ok () (s.emit b) := by
  unfold emitByte; rw [if_pos h]

/-- All a byte's write can do (rule R34). -/
theorem emitByte_cases (s : State) (b : Byte) :
    (s.oc < s.declared ∧ emitByte b s = .ok () (s.emit b)) ∨
      (s.declared ≤ s.oc ∧ emitByte b s = .error (.error .lengthMismatch) s) := by
  unfold emitByte
  split
  · exact .inl ⟨‹_›, rfl⟩
  · exact .inr ⟨by omega, rfl⟩

/-- All Copy can do, in the order of its checks (rule R98). -/
theorem copyOp_cases (s : State) (length distance : Nat) :
    ((distance < 1 ∨ s.oc < distance) ∧ copyOp length distance s = .error (.error .invalidBackreference) s) ∨
      (1 ≤ distance ∧ distance ≤ s.oc ∧ s.declared < s.oc + length ∧
        copyOp length distance s = .error (.error .lengthMismatch) s) ∨
      (1 ≤ distance ∧ distance ≤ s.oc ∧ s.oc + length ≤ s.declared ∧
        copyOp length distance s = .ok () (State.copyBytes length distance s)) := by
  unfold copyOp
  split
  · exact .inl ⟨‹_›, rfl⟩
  · split
    · exact .inr (.inl ⟨by omega, by omega, ‹_›, rfl⟩)
    · exact .inr (.inr ⟨by omega, by omega, by omega, rfl⟩)

/-- All CapacityCheck can do (rule R129). -/
theorem capacityCheckOp_cases (s : State) (len : Nat) :
    capacityCheckOp len s = .ok () s ∨ capacityCheckOp len s = .error (.error .lengthMismatch) s := by
  unfold capacityCheckOp
  split
  · exact .inr rfl
  · exact .inl rfl

/-- All CheckChild can do (rules R107, R108). -/
theorem checkChildOp_cases (s : State) (child : Nat) :
    (s.h8.tsize ≤ child ∧ checkChildOp child s = .error (.error .huffmanTableCorrupt) s) ∨
      (child < s.h8.tsize ∧ child ≤ s.h8.cur ∧ checkChildOp child s = .error (.error .invalidBackreference) s) ∨
      (child < s.h8.tsize ∧ s.h8.cur < child ∧ checkChildOp child s = .ok () s) := by
  unfold checkChildOp
  split
  · exact .inl ⟨‹_›, rfl⟩
  · split
    · exact .inr (.inl ⟨by omega, ‹_›, rfl⟩)
    · exact .inr (.inr ⟨by omega, by omega, rfl⟩)

/-- All reading the active reader can do (rule R32). -/
theorem reader_cases (s : State) :
    (∃ r, s.br = some r ∧ reader s = .ok r s) ∨ (s.br = none ∧ reader s = .error (.error .truncatedInput) s) := by
  unfold reader
  split
  · exact .inl ⟨_, ‹_›, rfl⟩
  · exact .inr ⟨‹_›, rfl⟩

/-- NextBit when it answers (rule R71): a bit was left under the limit, the state changes in the reader alone, the
reader's bounds stay, and it delivers the next unread bit of its byte. -/
theorem nextBit_ok {s t : State} {b : Bool} (h : nextBit s = .ok b t) :
    ∃ r r', s.br = some r ∧ r.pos < r.limit ∧ t = s.setReader r' ∧
      r'.lo = r.lo ∧ r'.hi = r.hi ∧ r'.limit = r.limit ∧ b = r'.cur.getLsbD r'.nbits ∧
      ((r.nbits ≠ 0 ∧ r'.idx = r.idx ∧ r'.cur = r.cur ∧ r'.nbits = r.nbits - 1) ∨
        (r.nbits = 0 ∧ r.idx < r.hi ∧ r.idx < s.inLen.toNat ∧ r'.idx = r.idx + 1 ∧ r'.cur = s.inByte r.idx ∧
          r'.nbits = 7)) := by
  rcases reader_cases s with ⟨r, hr, hop⟩ | ⟨_, hop⟩
  · simp only [nextBit, Op.bind_apply, hop] at h
    split at h
    · exact nomatch h
    · rename_i hlim
      split at h
      · rename_i h0
        unfold refill at h
        split at h
        · exact nomatch h
        · rename_i hhi
          rcases memRead_cases s r.idx 1 with hm | hm | ⟨hle, hm⟩
          · simp [hm] at h
          · simp [hm] at h
          · simp only [Op.bind_apply, hm, Op.pure_apply, update_apply] at h
            cases h
            exact ⟨r, _, hr, by omega, rfl, rfl, rfl, rfl, rfl,
              .inr ⟨h0, by omega, by omega, rfl, by simp [State.inBytes], rfl⟩⟩
      · rename_i h0
        simp only [Op.bind_apply, Op.pure_apply, update_apply] at h
        cases h
        exact ⟨r, _, hr, by omega, rfl, rfl, rfl, rfl, rfl, .inl ⟨h0, rfl, rfl, rfl⟩⟩
  · simp [nextBit, hop] at h

end Sys2Proof.Machine
end

