-- ==== Sys2Proof/Laws/PerInstr.lean ====
section
/-! SUPPORT. Statements made of every operation, one lemma per constructor. -/

namespace Sys2Proof.Laws

/-- An operation's encoded value fits the width of its context (30_encoding.md rule R47). -/
def EncodingFits.Statement (i : Instr) : Prop := ∀ e, encode i = some e → e.value < 2 ^ e.ctx.width

theorem EncodingFits.cmdStart : EncodingFits.Statement (.cmdStart) := by
  intro e h; cases h; simp only [Context.width]; omega

theorem EncodingFits.illegalHint7 : EncodingFits.Statement (.illegalHint7) := by
  intro e h; cases h; simp only [Context.width]; omega

theorem EncodingFits.dispatch : EncodingFits.Statement (.dispatch) := by
  intro e h; cases h

theorem EncodingFits.tagPresent (b0 b1 b2 b3 : Byte) : EncodingFits.Statement (.tagPresent b0 b1 b2 b3) := by
  intro e h; cases h; simp only [Context.width]; omega

theorem EncodingFits.dispatchLz10 (len : BitVec 24) : EncodingFits.Statement (.dispatchLz10 len) := by
  intro e h; cases h; simp only [Context.width]; omega

theorem EncodingFits.dispatchLz11 (len : BitVec 24) : EncodingFits.Statement (.dispatchLz11 len) := by
  intro e h; cases h; simp only [Context.width]; omega

theorem EncodingFits.dispatchHuf8 (len : BitVec 24) : EncodingFits.Statement (.dispatchHuf8 len) := by
  intro e h; cases h; simp only [Context.width]; omega

theorem EncodingFits.dispatchLzh8 (len : BitVec 24) : EncodingFits.Statement (.dispatchLzh8 len) := by
  intro e h; cases h; simp only [Context.width]; omega

theorem EncodingFits.illegalLeType (type : Byte) (len : BitVec 24) : EncodingFits.Statement (.illegalLeType type len) := by
  intro e h; cases h; simp only [Context.width]; omega

theorem EncodingFits.dispatchN64lz (len : BitVec 30) : EncodingFits.Statement (.dispatchN64lz len) := by
  intro e h; cases h; simp only [Context.width]; omega

theorem EncodingFits.dispatchRomchu (len : BitVec 30) : EncodingFits.Statement (.dispatchRomchu len) := by
  intro e h; cases h; simp only [Context.width]; omega

theorem EncodingFits.illegalNtype0 (len : BitVec 30) : EncodingFits.Statement (.illegalNtype0 len) := by
  intro e h; cases h; simp only [Context.width]; omega

theorem EncodingFits.illegalNtype3 (len : BitVec 30) : EncodingFits.Statement (.illegalNtype3 len) := by
  intro e h; cases h; simp only [Context.width]; omega

theorem EncodingFits.capacityCheck (len : Nat) : EncodingFits.Statement (.capacityCheck len) := by
  intro e h; cases h

theorem EncodingFits.entry (f : Format) (len : Nat) : EncodingFits.Statement (.entry f len) := by
  intro e h; cases h

theorem EncodingFits.brInit (lo hi : Nat) (limit : Option Nat) : EncodingFits.Statement (.brInit lo hi limit) := by
  intro e h; cases h

theorem EncodingFits.brReadbits (n : Nat) : EncodingFits.Statement (.brReadbits n) := by
  intro e h; cases h

theorem EncodingFits.brRefill : EncodingFits.Statement (.brRefill) := by
  intro e h; cases h

theorem EncodingFits.brCheckpad (endBit : Nat) : EncodingFits.Statement (.brCheckpad endBit) := by
  intro e h; cases h

theorem EncodingFits.htLoad (t : TableId) (size : Nat) : EncodingFits.Statement (.htLoad t size) := by
  intro e h; cases h

theorem EncodingFits.htRunEqual (t : TableId) (i : Nat) : EncodingFits.Statement (.htRunEqual t i) := by
  intro e h; cases h; simp only [Context.width]; omega

theorem EncodingFits.htRunSet (t : TableId) (i : Nat) : EncodingFits.Statement (.htRunSet t i) := by
  intro e h; cases h; simp only [Context.width]; omega

theorem EncodingFits.htBuild (t : TableId) : EncodingFits.Statement (.htBuild t) := by
  intro e h; cases h

theorem EncodingFits.htDecode (t : TableId) : EncodingFits.Statement (.htDecode t) := by
  intro e h; cases h; simp only [Context.width]; omega

theorem EncodingFits.lzFlags (flag : Byte) : EncodingFits.Statement (.lzFlags flag) := by
  intro e h; cases h; simp only [Context.width]; omega

theorem EncodingFits.lzLit (b : Byte) : EncodingFits.Statement (.lzLit b) := by
  intro e h; cases h; simp only [Context.width]; omega

theorem EncodingFits.lz10Ref (lm3 : BitVec 4) (dm1 : BitVec 12) : EncodingFits.Statement (.lz10Ref lm3 dm1) := by
  intro e h; cases h; simp only [Context.width]; omega

theorem EncodingFits.lz11RefShort (len1 : BitVec 4) (dm1 : BitVec 12) : EncodingFits.Statement (.lz11RefShort len1 dm1) := by
  intro e h; cases h; simp only [Context.width]; omega

theorem EncodingFits.lz11RefMed (len273 : BitVec 16) (dm1 : BitVec 12) : EncodingFits.Statement (.lz11RefMed len273 dm1) := by
  intro e h; cases h; simp only [Context.width]; omega

theorem EncodingFits.lz11RefLong (len17 : BitVec 8) (dm1 : BitVec 12) : EncodingFits.Statement (.lz11RefLong len17 dm1) := by
  intro e h; cases h; simp only [Context.width]; omega

theorem EncodingFits.copy (length distance : Nat) : EncodingFits.Statement (.copy length distance) := by
  intro e h; cases h

theorem EncodingFits.lzNext : EncodingFits.Statement (.lzNext) := by
  intro e h; cases h

theorem EncodingFits.h8Setup : EncodingFits.Statement (.h8Setup) := by
  intro e h; cases h

theorem EncodingFits.h8Poolbit : EncodingFits.Statement (.h8Poolbit) := by
  intro e h; cases h

theorem EncodingFits.h8Bit0 : EncodingFits.Statement (.h8Bit0) := by
  intro e h; cases h; simp only [Context.width]; omega

theorem EncodingFits.h8Bit1 : EncodingFits.Statement (.h8Bit1) := by
  intro e h; cases h; simp only [Context.width]; omega

theorem EncodingFits.emitLeaf (child : Nat) : EncodingFits.Statement (.emitLeaf child) := by
  intro e h; cases h

theorem EncodingFits.checkChild (l0 l1 : BitVec 1) (off : BitVec 6) : EncodingFits.Statement (.checkChild l0 l1 off) := by
  intro e h; cases h; simp only [Context.width]; omega

theorem EncodingFits.lzh8Setup : EncodingFits.Statement (.lzh8Setup) := by
  intro e h; cases h

theorem EncodingFits.lzh8Lit (b : Byte) : EncodingFits.Statement (.lzh8Lit b) := by
  intro e h; cases h; simp only [Context.width]; omega

theorem EncodingFits.lzh8Ref (len3 : BitVec 8) : EncodingFits.Statement (.lzh8Ref len3) := by
  intro e h; cases h; simp only [Context.width]; omega

theorem EncodingFits.lzh8Disp0 : EncodingFits.Statement (.lzh8Disp0) := by
  intro e h; cases h; simp only [Context.width]; omega

theorem EncodingFits.lzh8Dispn (displen : BitVec 5) : EncodingFits.Statement (.lzh8Dispn displen) := by
  intro e h; cases h; simp only [Context.width]; omega

theorem EncodingFits.lzh8Next : EncodingFits.Statement (.lzh8Next) := by
  intro e h; cases h

theorem EncodingFits.rcBlock : EncodingFits.Statement (.rcBlock) := by
  intro e h; cases h

theorem EncodingFits.rcBlkRaw (n : BitVec 31) : EncodingFits.Statement (.rcBlkRaw n) := by
  intro e h; cases h; simp only [Context.width]; omega

theorem EncodingFits.rcBlkComp (n : BitVec 31) : EncodingFits.Statement (.rcBlkComp n) := by
  intro e h; cases h; simp only [Context.width]; omega

theorem EncodingFits.rcTable (t : TableId) (size p : Nat) : EncodingFits.Statement (.rcTable t size p) := by
  intro e h; cases h

theorem EncodingFits.rcLit (b : Byte) : EncodingFits.Statement (.rcLit b) := by
  intro e h; cases h; simp only [Context.width]; omega

theorem EncodingFits.rcRef (cls : BitVec 8) : EncodingFits.Statement (.rcRef cls) := by
  intro e h; cases h; simp only [Context.width]; omega

theorem EncodingFits.rcLenClass (c : Nat) : EncodingFits.Statement (.rcLenClass c) := by
  intro e h; cases h

theorem EncodingFits.rcDistClass (dc : BitVec 5) : EncodingFits.Statement (.rcDistClass dc) := by
  intro e h; cases h; simp only [Context.width]; omega

theorem EncodingFits.rcNext : EncodingFits.Statement (.rcNext) := by
  intro e h; cases h

theorem EncodingFits.reservedRcSym1 (sym : BitVec 9) : EncodingFits.Statement (.reservedRcSym1 sym) := by
  intro e h; cases h; simp only [Context.width]; omega

theorem EncodingFits.reservedRcSym2 (sym : BitVec 5) : EncodingFits.Statement (.reservedRcSym2 sym) := by
  intro e h; cases h; simp only [Context.width]; omega

theorem EncodingFits.raise (e : ErrCode) : EncodingFits.Statement (.raise e) := by
  intro e h; cases h

theorem EncodingFits.complete : EncodingFits.Statement (.complete) := by
  intro e h; cases h

end Sys2Proof.Laws
end

