-- ==== Sys2Proof/Tests/Slice0.lean ====
section
/-! SUPPORT. The model's own tests: ill-formed operations refused, words of the spec's encodings decoded, one step on the
spec's examples, and for each statement with hypotheses a state and operands that meet them. -/

namespace Sys2Proof.Tests

open Sys2Proof.Machine

-- Elaborated one after another: side by side, the kernel evaluations hold more threads than the memory limit allows.
set_option Elab.async false

/-! ### Small states -/

/-- A memory that lists bytes from an address on. -/
def listed (a : Nat) : List Byte → Memory
  | [] => []
  | b :: bs => (a, b) :: listed (a + 1) bs

/-- A running machine whose IN holds these bytes. -/
def machine (bytes : List Byte) : State :=
  { State.reset with
    inMem := listed 0 bytes, inLen := BitVec.ofNat 32 bytes.length, status := Status.started, phase := .dispatch }

/-- A running machine that has produced some output of a declared length. -/
def decoding (p : Phase) (input output : List Byte) (declared : Nat) : State :=
  { machine input with
    phase := p, outMem := listed 0 output, oc := output.length, declared := declared
    outLen := BitVec.ofNat 32 declared }

/-- A machine with a reader over all its bytes. -/
def reading (s : State) (limit : Nat) : State :=
  s.setReader (BitReader.init 0 s.inLen.toNat (some limit))

/-- Something of the next state. -/
def after {α : Type} (o : Host.Outcome State Fault Refusal) (f : State → α) : Option α :=
  match o with
  | .next t => some (f t)
  | .fault _ => none
  | .refused _ => none

/-- The error an operation raised. -/
def errorOf (o : Host.Outcome State Fault Refusal) : Option (BitVec 3 × Bool) :=
  after o fun t => (t.status.err, t.status.done)

/-- The first `n` bytes of OUT. -/
def outBytes (n : Nat) (s : State) : List Byte := (List.range n).map s.outByte

/-- A description's example of rule R75: lengths `[3,3,3,3,3,2,4,4]`. -/
def exampleLens : List Nat := [3, 3, 3, 3, 3, 2, 4, 4]

/-- The tree of a table's lengths under the standard configuration. -/
def treeOf (lens : List Nat) : List Node := (buildTree Config.standard lens).getD []

/-! ### Ill-formed operations are refused -/

theorem test_wf_refuses_known_le_type : (Instr.illegalLeType 0x28 0).wf = false := by decide
theorem test_wf_refuses_reader_ending_before_it_starts : (Instr.brInit 4 3 none).wf = false := by decide
theorem test_wf_refuses_limit_past_the_last_byte : (Instr.brInit 0 1 (some 9)).wf = false := by decide
theorem test_wf_refuses_33_bits : (Instr.brReadbits 33).wf = false := by decide
theorem test_wf_refuses_pad_inside_a_byte : (Instr.brCheckpad 4).wf = false := by decide
theorem test_wf_refuses_other_alphabet : (Instr.htLoad .t1 286).wf = false := by decide
theorem test_wf_refuses_short_nibble_1 : (Instr.lz11RefShort 1 0).wf = false := by decide
theorem test_wf_refuses_empty_copy : (Instr.copy 0 1).wf = false := by decide
theorem test_wf_refuses_displen_0 : (Instr.lzh8Dispn 0).wf = false := by decide
theorem test_wf_refuses_table_inside_a_byte : (Instr.rcTable .t1 285 4).wf = false := by decide
theorem test_wf_refuses_length_class_29 : (Instr.rcRef 29).wf = false := by decide
theorem test_wf_refuses_class_index_29 : (Instr.rcLenClass 29).wf = false := by decide
theorem test_wf_refuses_distance_class_30 : (Instr.rcDistClass 30).wf = false := by decide
theorem test_wf_refuses_real_symbol1 : (Instr.reservedRcSym1 0x11C).wf = false := by decide
theorem test_wf_refuses_real_symbol2 : (Instr.reservedRcSym2 29).wf = false := by decide

/-! ### Words written out from the encodings of 30_encoding.md -/

theorem test_decode_cmd_start : decode .hostCtrl 0b1 [] = .ok .cmdStart := by decide
theorem test_decode_ctrl_zero : decode .hostCtrl 0b10 [] = .error .noCommand := by decide
theorem test_decode_hint7 : decode .hostHint 0b111 [] = .ok .illegalHint7 := by decide
theorem test_decode_tag : decode .prefix32 0x4C5A3737 [] = .ok (.tagPresent 0x4C 0x5A 0x37 0x37) := by decide
theorem test_decode_lz10 : decode .hdrLe32 0x00000A10 [] = .ok (.dispatchLz10 10) := by decide
theorem test_decode_lz11 : decode .hdrLe32 0xFFFFFF11 [] = .ok (.dispatchLz11 0xFFFFFF) := by decide
theorem test_decode_huf8 : decode .hdrLe32 0x00000428 [] = .ok (.dispatchHuf8 4) := by decide
theorem test_decode_lzh8 : decode .hdrLe32 0x00000540 [] = .ok (.dispatchLzh8 5) := by decide
theorem test_decode_le_reserved : decode .hdrLe32 0x00000A12 [] = .ok (.illegalLeType 0x12 10) := by decide
theorem test_decode_n64lz : decode .hdrBe32 0b101001 [] = .ok (.dispatchN64lz 10) := by decide
theorem test_decode_romchu : decode .hdrBe32 0b10110 [] = .ok (.dispatchRomchu 5) := by decide
theorem test_decode_ntype0 : decode .hdrBe32 0b100 [] = .ok (.illegalNtype0 1) := by decide
theorem test_decode_ntype3 : decode .hdrBe32 0b111 [] = .ok (.illegalNtype3 1) := by decide
theorem test_decode_run_equal : decode (.htRun .t1 4) 1 [] = .ok (.htRunEqual .t1 4) := by decide
theorem test_decode_run_set : decode (.htRun .t2 0) 0 [] = .ok (.htRunSet .t2 0) := by decide
theorem test_decode_walk : decode (.htBit .t1) 1 [] = .ok (.htDecode .t1) := by decide
theorem test_decode_flags : decode .lzFlag8 0x20 [] = .ok (.lzFlags 0x20) := by decide
theorem test_decode_literal : decode .lzFlagbit 0 [0x41] = .ok (.lzLit 0x41) := by decide
theorem test_decode_literal_missing : decode .lzFlagbit 0 [] = .error .needsBytes := by decide
theorem test_decode_lz10_ref : decode .lz10Tok16 0x5001 [] = .ok (.lz10Ref 5 1) := by decide
theorem test_decode_lz11_short : decode .lz11Info16 0x2001 [] = .ok (.lz11RefShort 2 1) := by decide
theorem test_decode_lz11_long : decode .lz11Info16 0x0FFF [0xFE] = .ok (.lz11RefLong 0xFF 0xFFE) := by decide
theorem test_decode_lz11_med :
    decode .lz11Info16 0x1234 [0x56, 0x78] = .ok (.lz11RefMed 0x2345 0x678) := by decide
theorem test_decode_h8_bit0 : decode .h8Bit 0 [] = .ok .h8Bit0 := by decide
theorem test_decode_h8_bit1 : decode .h8Bit 1 [] = .ok .h8Bit1 := by decide
theorem test_decode_h8_node : decode .h8Node8 0b10000010 [] = .ok (.checkChild 1 0 2) := by decide
theorem test_decode_lzh8_literal : decode .lzh8Sym1 0xFF [] = .ok (.lzh8Lit 0xFF) := by decide
theorem test_decode_lzh8_ref : decode .lzh8Sym1 0x101 [] = .ok (.lzh8Ref 1) := by decide
theorem test_decode_displen0 : decode .lzh8Sym2 0 [] = .ok .lzh8Disp0 := by decide
theorem test_decode_displen31 : decode .lzh8Sym2 31 [] = .ok (.lzh8Dispn 31) := by decide
theorem test_decode_raw_block : decode .rcBlkhdr32 0x7FFFFFFF [] = .ok (.rcBlkRaw 0x7FFFFFFF) := by decide
theorem test_decode_comp_block : decode .rcBlkhdr32 0x80000058 [] = .ok (.rcBlkComp 88) := by decide
theorem test_decode_rc_literal : decode .rcSym1 0x61 [] = .ok (.rcLit 0x61) := by decide
theorem test_decode_rc_ref : decode .rcSym1 0x11C [] = .ok (.rcRef 28) := by decide
theorem test_decode_rc_reserved1 : decode .rcSym1 0x11D [] = .ok (.reservedRcSym1 0x11D) := by decide
theorem test_decode_rc_dist : decode .rcSym2 29 [] = .ok (.rcDistClass 29) := by decide
theorem test_decode_rc_reserved2 : decode .rcSym2 30 [] = .ok (.reservedRcSym2 30) := by decide
theorem test_decode_too_wide : decode .rcSym2 32 [] = .error .tooWide := by decide

/-! ### One step on the spec's examples -/

/-- Rule R125's example: after a failed call, START leaves STATUS with BUSY alone. -/
theorem test_start_after_failure :
    after (exec .cmdStart ((machine []).raise .truncatedInput)) (fun t => (t.status.word, t.phase)) =
      some (1, .dispatch) := by decide +kernel

/-- Rule R126's example. -/
theorem test_dispatch_example :
    after (exec .dispatch (machine [0x10, 0x0A, 0, 0, 9])) (fun t => (t.fmt, t.declared, t.ip, t.phase)) =
      some (1, 10, 4, .lzFlag) := by decide +kernel

/-- Rule R127's example: the tag puts the header at address 4. -/
theorem test_dispatch_tagged :
    after (exec .dispatch (machine [0x4C, 0x5A, 0x37, 0x37, 0x10, 0x0A, 0, 0])) (fun t => (t.fmt, t.declared, t.ip)) =
      some (1, 10, 8) := by decide +kernel

/-- Rule R127's conditions on the example's bytes. -/
theorem test_tag_present :
    after (exec (.tagPresent 0x4C 0x5A 0x37 0x37) (machine [0x4C, 0x5A, 0x37, 0x37, 0x10, 0x0A, 0, 0])) State.ret =
      some 1 := by decide +kernel

/-- Rule R130's example: HINT 2 with an LZ10 header. -/
theorem test_hint_mismatch :
    errorOf (exec .dispatch { machine [0x10, 0x0A, 0, 0] with hint := 2 }) = some (1, true) := by decide +kernel

/-- Rule R126: HINT 6 and the word 0x16 give ROMCHU and length 5. -/
theorem test_dispatch_romchu :
    after (exec (.dispatchRomchu 5) { machine [0, 0, 0, 0x16] with hint := 6 })
      (fun t => (t.status.format, t.outLen, t.phase)) = some (6, 5, .rcBlock) := by decide +kernel

/-- Rule R131: an empty HUF8 output still parses the count byte. -/
theorem test_entry_huf8 :
    after (exec (.entry .huf8 0) (machine [])) (fun t => (t.phase, t.status.busy)) = some (.h8Setup, true) := by
  decide +kernel

/-- Rule R129. -/
theorem test_capacity :
    errorOf (exec (.capacityCheck 5) { machine [] with cfg := { outCapacity := some 4 } }) = some (5, true) := by
  decide +kernel

/-- Rule R69's example. -/
theorem test_br_init :
    after (exec (.brInit 10 14 none) (machine [])) (fun t => t.br.map fun r => (r.limit, r.pos)) =
      some (some (32, 0)) := by decide +kernel

/-- Rule R70's example: 3, then 7, then 6 bits of `A5 3C`. -/
theorem test_read_bits :
    after (exec (.brReadbits 3) (reading (machine [0xA5, 0x3C]) 16)) State.ret = some 5 := by decide +kernel

/-- Rule R70's example, its last read. -/
theorem test_read_bits_across_bytes :
    after (exec (.brReadbits 6)
      ((machine [0xA5, 0x3C]).setReader { lo := 0, hi := 2, limit := 16, idx := 2, nbits := 6, cur := 0x3C }))
      State.ret = some 0x3C := by decide +kernel

/-- Rule R71's example: the first bit of `80`. -/
theorem test_next_bit :
    after (exec .brRefill (reading (machine [0x80]) 8)) (fun t => (t.ret, t.br.map fun r => (r.idx, r.nbits))) =
      some (1, some (1, 7)) := by decide +kernel

/-- Rule R71's example: the ninth bit. -/
theorem test_next_bit_past_the_end :
    errorOf (exec .brRefill
      ((machine [0x80]).setReader { lo := 0, hi := 1, limit := 8, idx := 1, nbits := 0, cur := 0x80 })) =
      some (2, true) := by decide +kernel

/-- Rule R73's example: `A0` passes after its first three bits. -/
theorem test_check_pad :
    after (exec (.brCheckpad 8)
      ((machine [0xA0]).setReader { lo := 0, hi := 1, limit := 3, idx := 1, nbits := 5, cur := 0xA0 }))
      (fun t => t.br.map BitReader.pos) = some (some 8) := by decide +kernel

/-- Rule R73's example: `A1` does not. -/
theorem test_check_pad_nonzero :
    errorOf (exec (.brCheckpad 8)
      ((machine [0xA1]).setReader { lo := 0, hi := 1, limit := 3, idx := 1, nbits := 5, cur := 0xA1 })) =
      some (4, true) := by decide +kernel

/-- Rule R75's example, V-HT-1. -/
theorem test_load :
    after (exec (.htLoad .t1 8) (reading (machine [0x83, 0x30, 0x22, 0x44]) 32))
      (fun t => (t.t1.len, t.t1.node.length, t.br.map BitReader.pos)) =
      some (exampleLens, 15, some 32) := by decide +kernel

/-- Rule R76's example: `1 1111111 0000` without its tag sets 129 symbols to length 0. -/
theorem test_run_equal :
    after (exec (.htRunEqual .t1 1)
      { reading (machine [0xFE, 0x00]) 16 with t1 := { size := 130, len := List.replicate 130 7 } })
      (fun t => (t.ret, t.t1.len)) = some (130, 7 :: List.replicate 129 0) := by decide +kernel

/-- Rule R77's example: `0 0000010 0010 0100 0100` without its tag gives three symbols the lengths 2, 4, 4. -/
theorem test_run_set :
    after (exec (.htRunSet .t2 5)
      { reading (machine [0x04, 0x48, 0x80]) 24 with t2 := { size := 8, len := List.replicate 8 3 } })
      (fun t => (t.ret, t.t2.len)) = some (8, exampleLens) := by decide +kernel

/-- Rule R84's example: 15 nodes, 8 of them leaves. -/
theorem test_build :
    after (exec (.htBuild .t1) { machine [] with t1 := { size := 8, len := exampleLens } })
      (fun t => (t.t1.node.length, (t.t1.node.filter fun n => n.sym.isSome).length)) = some (15, 8) := by
  decide +kernel

/-- Rule R81: three codes of length 1 over-subscribe the code space. -/
theorem test_build_oversubscribed :
    errorOf (exec (.htBuild .t2) { machine [] with t2 := { size := 3, len := [1, 1, 1] } }) = some (4, true) := by
  decide +kernel

/-- Rule R81's example: the codes of symbols 0, 4, 5 and 7. -/
theorem test_canonical_codes :
    ([0, 4, 5, 7] : List Nat).map (fun v => canonicalCode exampleLens v (exampleLens.getD v 0)) =
      [0b010, 0b110, 0b00, 0b1111] := by decide

/-- Rule R87's example: `1110` decodes symbol 6 in 4 bits. -/
theorem test_decode_symbol :
    after (exec (.htDecode .t1) { reading (machine [0xE0]) 8 with t1 := { node := treeOf exampleLens } })
      (fun t => (t.ret, t.br.map BitReader.pos)) = some (6, some 4) := by decide +kernel

/-- Rule R92's example. -/
theorem test_flags :
    after (exec (.lzFlags 0x20) (decoding .lzFlag [0x20] [] 8)) (fun t => (t.flag, t.fcnt, t.ip, t.phase)) =
      some (0x20, 8, 1, .lzToken) := by decide +kernel

/-- Rule R93's example. -/
theorem test_literal :
    after (exec (.lzLit 0x41) { decoding .lzToken [0x41] [] 2 with fcnt := 8 }) (fun t => (t.outByte 0, t.oc, t.fcnt)) =
      some (0x41, 1, 7) := by decide +kernel

/-- Rule R94's example: the pattern repeats and completes the output. -/
theorem test_lz10_ref :
    after (exec (.lz10Ref 5 1) { decoding .lzToken [0x50, 0x01] [0x41, 0x42] 10 with fcnt := 3 })
      (fun t => (outBytes 10 t, t.phase)) =
      some ([0x41, 0x42, 0x41, 0x42, 0x41, 0x42, 0x41, 0x42, 0x41, 0x42], .done) := by decide +kernel

/-- Rule R135's example: the distance is checked before the length. -/
theorem test_lz10_ref_priority :
    errorOf (exec (.lz10Ref 15 9) (decoding .lzToken [0xF0, 0x09] [1, 2, 3] 5)) = some (3, true) := by decide +kernel

/-- Rule R95's example. -/
theorem test_lz11_short :
    after (exec (.lz11RefShort 2 1) { decoding .lzToken [0x20, 0x01] [0x61, 0x62] 9 with fcnt := 1 })
      (fun t => (outBytes 5 t, t.phase)) = some ([0x61, 0x62, 0x61, 0x62, 0x61], .lzFlag) := by decide +kernel

/-- Rule R96's example: token `00 30 00` gives 20 bytes. -/
theorem test_lz11_long :
    after (exec (.lz11RefLong 3 0) { decoding .lzToken [0x00, 0x30, 0x00] [0x7A] 99 with fcnt := 4 })
      (fun t => (t.oc, t.outByte 20, t.ip)) = some (21, 0x7A, 3) := by decide +kernel

/-- Rule R97's example: token `10 00 00 00` gives 273 bytes. -/
theorem test_lz11_med :
    after (exec (.lz11RefMed 0 0) { decoding .lzToken [0x10, 0, 0, 0] [0] 274 with fcnt := 4 })
      (fun t => (t.oc, t.phase, t.ip)) = some (274, .done, 4) := by decide +kernel

/-- Rule R98's example. -/
theorem test_copy :
    after (exec (.copy 5 1) (decoding .lzToken [] [0x58] 6)) (fun t => (outBytes 6 t, t.oc)) =
      some (List.replicate 6 0x58, 6) := by decide +kernel

/-- Rule R99: the last flag bit leads to the next flag byte. -/
theorem test_lz_next :
    after (exec .lzNext { decoding .lzToken [] [1] 2 with fcnt := 1 }) (fun t => (t.fcnt, t.phase)) =
      some (0, .lzFlag) := by decide +kernel

/-- Rule R102's example. -/
theorem test_h8_setup :
    after (exec .h8Setup (decoding .h8Setup [0x28, 4, 0, 0, 2, 0, 0, 0, 0, 0] [] 4))
      (fun t => (t.h8.sc, t.h8.tsize, t.h8.pidx, t.phase)) = some (3, 5, 12, .h8Walk) := by decide +kernel

/-- Rule R103's example: `00 00 00 58` gives the word 0x58000000 and a first bit 0. -/
theorem test_pool_bit :
    after (exec .h8Poolbit (decoding .h8Walk [0, 0, 0, 0x58] [] 4)) (fun t => (t.h8.pw, t.h8.pbits, t.ret)) =
      some (0x58000000, 31, 0) := by decide +kernel

/-- The walker of rules R104 and R105's examples: the table `80 41 C0 42 43` and one pool bit. -/
def walker (cur : Nat) (bit : Word32) : State :=
  { decoding .h8Walk [0x28, 2, 0, 0, 2, 0x80, 0x41, 0xC0, 0x42, 0x43] [] 2 with
    fmt := 4, h8 := { sc := 3, tsize := 5, cur := cur, pidx := 12, pw := bit, pbits := 1 } }

/-- Rule R104's example: the left edge from the root reaches the leaf 0x41. -/
theorem test_h8_bit0 :
    after (exec .h8Bit0 (walker 0 0)) (fun t => (t.outByte 0, t.h8.cur, t.oc)) = some (0x41, 0, 1) := by
  decide +kernel

/-- Rule R105's example: the right edge from the root reaches node 2. -/
theorem test_h8_bit1 :
    after (exec .h8Bit1 (walker 0 1)) (fun t => (t.h8.cur, t.oc)) = some (2, 0) := by decide +kernel

/-- Rule R105's example: the right edge from node 2 reaches the leaf 0x43. -/
theorem test_h8_bit1_leaf :
    after (exec .h8Bit1 (walker 2 1)) (fun t => (t.outByte 0, t.h8.cur)) = some (0x43, 0) := by decide +kernel

/-- Rule R106: the second byte completes the output. -/
theorem test_emit_leaf :
    after (exec (.emitLeaf 3) { walker 2 1 with oc := 1 }) (fun t => (t.outByte 1, t.phase)) = some (0x42, .done) := by
  decide +kernel

/-- Rule R107's example: node `02` at index 2 of a table of 5. -/
theorem test_check_child :
    errorOf (exec (.checkChild 0 0 2) (walker 2 0)) = some (4, true) := by decide +kernel

/-- A configuration with alphabets of three and two symbols, small enough to write out. -/
def smallAlphabets : Config := { lzh8S1 := 3, lzh8S2 := 2, rcS1 := 3, rcS2 := 2 }

/-- The description `0 0000010 0001 0010 0010` of the lengths 1, 2, 2, and `1 0000000 0001` of the lengths 1, 1. -/
def smallRuns1 : List Run := [.set [1, 2, 2]]
/-- See `smallRuns1`. -/
def smallRuns2 : List Run := [.equal 2 1]

/-- An LZH8 stream laid out as rule R109's example: two one-word tables and a body of one byte. -/
def lzh8Stream : List Byte :=
  [0x40, 5, 0, 0, 1, 0, 0x02, 0x12, 0x20, 0, 1, 0, 0x80, 0x10, 0, 0, 0b01000000]

/-- Rule R109's example: the body reader covers the bytes from 16 on. -/
theorem test_lzh8_setup :
    after (exec .lzh8Setup { decoding .lzh8Setup lzh8Stream [] 5 with cfg := smallAlphabets })
      (fun t => (t.t1.len, t.t2.len, t.br.map fun r => (r.lo, r.hi), t.phase)) =
      some ([1, 2, 2], [1, 1], some (16, 17), .lzh8Body) := by decide +kernel

/-- A body in which T1's symbol `v` has the code `0`, and T2's symbol `w`. -/
def lzh8Body (input output : List Byte) (declared v w : Nat) : State :=
  { reading (decoding .lzh8Body input output declared) (8 * input.length) with
    t1 := { node := oneLeaf v }, t2 := { node := oneLeaf w }, fmt := 5 }

/-- Rule R110's example. -/
theorem test_lzh8_literal :
    after (exec (.lzh8Lit 0x41) (lzh8Body [0] [] 2 0x41 0)) (fun t => (t.outByte 0, t.oc, t.br.map BitReader.pos)) =
      some (0x41, 1, some 1) := by decide +kernel

/-- Rule R111's example: length 4, displen 2 with raw bit 0, distance 3. -/
theorem test_lzh8_ref :
    after (exec (.lzh8Ref 1) (lzh8Body [0] [0x41, 0x42, 0x43] 7 0x101 2))
      (fun t => (outBytes 7 t, t.br.map BitReader.pos, t.phase)) =
      some ([0x41, 0x42, 0x43, 0x41, 0x42, 0x43, 0x41], some 3, .done) := by decide +kernel

/-- Rule R112: no raw bits, displacement 0. -/
theorem test_lzh8_disp0 : after (exec .lzh8Disp0 (machine [])) State.ret = some 0 := by decide +kernel

/-- Rule R113's example: displen 3 with raw bits `01` gives 5. -/
theorem test_lzh8_dispn :
    after (exec (.lzh8Dispn 3) (reading (machine [0b01000000]) 8)) State.ret = some 5 := by decide +kernel

/-- Rule R114. -/
theorem test_lzh8_next :
    after (exec .lzh8Next (decoding .lzh8Body [] [1] 1)) (fun t => (t.phase, t.status.outValid)) =
      some (.done, true) := by decide +kernel

/-- Rule R117's example: `00 00 00 02` and `48 69` copy "Hi". -/
theorem test_raw_block :
    after (exec (.rcBlkRaw 2) (decoding .rcBlock [0, 0, 0, 2, 0x48, 0x69] [] 2))
      (fun t => (outBytes 2 t, t.ip, t.phase)) = some ([0x48, 0x69], 6, .done) := by decide +kernel

/-- Rule R116: the header selects the raw block. -/
theorem test_block_raw :
    after (exec .rcBlock (decoding .rcBlock [0, 0, 0, 2, 0x48, 0x69] [] 3)) (fun t => (t.oc, t.phase)) =
      some (2, .rcBlock) := by decide +kernel

/-- Rule R116's example: the input ends on the block boundary. -/
theorem test_block_end :
    errorOf (exec .rcBlock { decoding .rcBlock [0, 0, 0, 2, 0x48, 0x69] [1, 2] 5 with ip := 6 }) = some (5, true) := by
  decide +kernel

/-- A compressed Romchu block laid out as rule R62: tables of 20 and 12 bits, then a body of four bits. -/
def rcStream : List Byte :=
  [0x80, 0, 0, 76, 0, 20, 0x02, 0x12, 0x20, 0, 12, 0x80, 0x10, 0b01000000]

/-- The machine before that block. -/
def rcBlockState : State := { decoding .rcBlock rcStream [] 4 with cfg := smallAlphabets, fmt := 6 }

/-- The machine inside that block, its header taken. -/
def rcTableState : State := rcBlockState.setRc { n := 76, payload := 4, next := 14 }

/-- Rule R118: both tables, then the body from bit 72 on. -/
theorem test_comp_block :
    after (exec (.rcBlkComp 76) rcBlockState)
      (fun t => (t.t1.len, t.t2.len, t.br.map fun r => (r.lo, r.limit), t.phase)) =
      some ([1, 2, 2], [1, 1], some (13, 4), .rcBody) := by decide +kernel

/-- Rule R119's example: a 20-bit description fills a 3-byte sub-stream. -/
theorem test_rc_table :
    after (exec (.rcTable .t1 3 0) rcTableState) (fun t => (t.t1.len, t.ret)) = some ([1, 2, 2], 40) := by
  decide +kernel

/-- A Romchu body whose reader may deliver `limit` bits of one zero byte, the next block header at address 1. -/
def rcBody (output : List Byte) (declared v w limit : Nat) : State :=
  { lzh8Body [0] output declared v w with
    phase := .rcBody, fmt := 6, br := some (BitReader.init 0 1 (some limit)), rc := { next := 1 } }

/-- Rule R120: a literal; bits remain in the block. -/
theorem test_rc_literal :
    after (exec (.rcLit 0x61) (rcBody [] 1 0x61 0 2)) (fun t => (t.outByte 0, t.phase)) = some (0x61, .rcBody) := by
  decide +kernel

/-- Rule R120: a token after the output is complete. -/
theorem test_rc_literal_past_length :
    errorOf (exec (.rcLit 0x61) (rcBody [1] 1 0x61 0 2)) = some (5, true) := by decide +kernel

/-- Rule R121's example: class 1 and distance class 1 repeat `61 62`. -/
theorem test_rc_ref :
    after (exec (.rcRef 1) (rcBody [0x61, 0x62] 6 0x101 1 2)) (fun t => (outBytes 6 t, t.phase, t.ip)) =
      some ([0x61, 0x62, 0x61, 0x62, 0x61, 0x62], .done, 1) := by decide +kernel

/-- Rule R122's example: class 9 with extra bit 1. -/
theorem test_len_class :
    after (exec (.rcLenClass 9) (reading (machine [0x80]) 8)) State.ret = some 14 := by decide +kernel

/-- Rule R123's example: class 4 with extra bit 1. -/
theorem test_dist_class :
    after (exec (.rcDistClass 4) (reading (machine [0x80]) 8)) State.ret = some 6 := by decide +kernel

/-- Rule R124: the bits are used up before the length. -/
theorem test_rc_next :
    after (exec .rcNext (rcBody [1] 2 0 0 0)) (fun t => (t.phase, t.ip)) = some (.rcBlock, 1) := by decide +kernel

/-- Rules R64 and R65: the tables begin, go on and end as printed. -/
theorem test_class_tables :
    lengthClasses.length = 29 ∧ distanceClasses.length = 30 ∧
      (∀ c < 27, (lengthClasses.getD c (0, 0)).1 + 2 ^ (lengthClasses.getD c (0, 0)).2 =
        (lengthClasses.getD (c + 1) (0, 0)).1) ∧
      (∀ d < 29, (distanceClasses.getD d (0, 0)).1 + 2 ^ (distanceClasses.getD d (0, 0)).2 =
        (distanceClasses.getD (d + 1) (0, 0)).1) := by decide +kernel

/-- The fault an operation stopped with. -/
def faultOf (o : Host.Outcome State Fault Refusal) : Option Fault :=
  match o with
  | .next _ => none
  | .fault f => some f
  | .refused _ => none

/-- Rule R67: the symbols that cannot occur stop by name. -/
theorem test_reserved_symbols :
    faultOf (exec (.reservedRcSym1 0x11D) (machine [])) = some .reservedRomchuSymbol1 ∧
      faultOf (exec (.reservedRcSym2 30) (machine [])) = some .reservedRomchuSymbol2 := by decide +kernel

/-- Rule R67: headers that name no format. -/
theorem test_reserved_headers :
    errorOf (exec (.illegalLeType 0x12 1) (machine [0x12, 1, 0, 0])) = some (1, true) ∧
      errorOf (exec (.illegalNtype0 1) { machine [0, 0, 0, 4] with hint := 3 }) = some (1, true) ∧
      errorOf (exec (.illegalNtype3 1) { machine [0, 0, 7] with hint := 3 }) = some (2, true) := by decide +kernel

/-- Rules R132 and R136: STATUS as the host reads it, 0x22 plus the format after success, 2 plus the code after an
error. -/
theorem test_status_words :
    after (exec .complete { machine [] with status := { busy := true, format := 1 } }) (fun t => t.status.word) =
      some 0x62 ∧
    after (exec (.raise .huffmanTableCorrupt) (machine [])) (fun t => t.status.word) = some 0x12 ∧
    after (exec .illegalHint7 (machine [])) (fun t => t.status.word) = some 0x6 := by decide +kernel

/-- Rule R145: a host's load, length, START; the hint is 0. -/
theorem test_host_starts_a_call :
    after (step { State.reset with host := [.writeReg .ctrl 1] }) (fun t => (t.phase, t.status.busy, t.host)) =
      some (.dispatch, true, []) := by decide +kernel

/-! ### States and operands that meet the hypotheses of each statement -/

/-- IN without a finite capacity is covered. -/
theorem covered {s : State} (h : s.cfg.inCapacity = none) : s.inCovered := by
  intro c hc; rw [h] at hc; cases hc

/-- A reader whose registers have been checked one by one. -/
theorem readerOk_of {s : State} {r : BitReader}
    (h : r.lo ≤ r.idx ∧ r.idx ≤ r.hi ∧ r.hi ≤ s.inLen.toNat ∧ r.limit ≤ (r.hi - r.lo) * 8 ∧ r.pos ≤ r.limit ∧
      r.nbits ≤ 8 ∧ (r.nbits ≠ 0 → r.lo < r.idx ∧ r.cur = s.inByte (r.idx - 1))) : s.ReaderOk r :=
  ⟨h.1, h.2.1, h.2.2.1, h.2.2.2.1, h.2.2.2.2.1, h.2.2.2.2.2.1, h.2.2.2.2.2.2⟩

/-- An idle machine with one host turn waiting. -/
def hostDoes (act : HostAct) : State := { State.reset with host := [act] }

theorem witness_CmdStartBeginsACall :
    State.reset.status.busy = false ∧ (machine []).status.busy = true := by decide +kernel

theorem witness_HostWritesFollowTheRegisterMap :
    ((hostDoes (.writeReg .ctrl 1)).host = .writeReg .ctrl 1 :: [] ∧
      (hostDoes (.writeReg .ctrl 1)).status.busy = false ∧ (1 : Word32).getLsbD 0 = true) ∧
    ((hostDoes (.writeReg .tagHint 7)).host = .writeReg .tagHint 7 :: [] ∧ HostReg.tagHint ≠ .ctrl) ∧
    ({ machine [] with host := [.writeReg .ctrl 1] }.host = .writeReg .ctrl 1 :: [] ∧
      { machine [] with host := [.writeReg .ctrl 1] }.status.busy = true) ∧
    ((hostDoes (.writeReg .ctrl 2)).host = .writeReg .ctrl 2 :: [] ∧ (2 : Word32).getLsbD 0 = false) := by
  decide +kernel

theorem witness_HostReadsTheRegisterMap :
    (hostDoes (.readReg .status)).host = .readReg .status :: [] := by decide +kernel

theorem witness_HostLoadsInAndReadsOut :
    ((hostDoes (.loadIn 0 7)).host = .loadIn 0 7 :: [] ∧ (hostDoes (.loadIn 0 7)).status.busy = false ∧
      ∀ c ∈ (hostDoes (.loadIn 0 7)).cfg.inCapacity, 0 < c) ∧
    ({ machine [] with host := [.loadIn 0 7] }.host = .loadIn 0 7 :: [] ∧
      { machine [] with host := [.loadIn 0 7] }.status.busy = true) ∧
    ({ hostDoes (.readOut 3) with cfg := { outCapacity := some 4 } }.host = .readOut 3 :: [] ∧
      ∀ c ∈ { hostDoes (.readOut 3) with cfg := { outCapacity := some 4 } }.cfg.outCapacity, 3 < c) := by
  decide +kernel

theorem witness_ResetLeavesTheStatedValues :
    { machine [] with host := [.powerOnReset] }.host = .powerOnReset :: [] := by decide +kernel

theorem witness_RaiseEndsTheCallWithItsCode : ErrCode.unsupportedFormat = .unsupportedFormat := rfl

theorem witness_CompletionReportsSuccessAndWaits :
    State.reset.complete.host = [] ∧ State.reset.complete.phase = .done ∧ State.reset.host = [] ∧
      State.reset.phase = .idle := by decide +kernel

/-- An LZ10 stream behind an ASCII tag. -/
def taggedStream : List Byte := [0x20, 0x7E, 0x37, 0x37, 0x10, 0x0A, 0, 0]

theorem witness_TagPresentAnswersItsConditions :
    (machine taggedStream).inCovered ∧ (0x20 : Byte) = (machine taggedStream).inByte 0 ∧
      (0x7E : Byte) = (machine taggedStream).inByte 1 ∧ (0x37 : Byte) = (machine taggedStream).inByte 2 ∧
      (0x37 : Byte) = (machine taggedStream).inByte 3 ∧ (machine taggedStream).headerAt = 4 :=
  ⟨covered rfl, by decide +kernel⟩

/-- A machine whose OUT holds four bytes at most. -/
def smallOut (bytes : List Byte) : State := { machine bytes with cfg := { outCapacity := some 4 } }

theorem witness_CapacityCheckRefusesALargerLength :
    (smallOut []).outFits 4 ∧ (smallOut []).cfg.outCapacity = some 4 ∧ 4 < 5 := by decide +kernel

theorem witness_EntryPicksTheFirstPhase :
    Format.n64lz = .n64lz ∧ Format.huf8 = .huf8 ∧ Format.lzh8 = .lzh8 ∧ Format.romchu = .romchu := by decide

theorem witness_HeaderRowsDispatch :
    (smallOut [0x10, 4, 0, 0]).inCovered ∧
    ((.dispatchLz10 4, .lz10) ∈ ([(.dispatchLz10 4, .lz10), (.dispatchLz11 4, .lz11), (.dispatchHuf8 4, .huf8),
        (.dispatchLzh8 4, .lzh8)] : List (Instr × Format)) ∧
      (smallOut [0x10, 4, 0, 0]).headerAt + 4 ≤ (smallOut [0x10, 4, 0, 0]).inLen.toNat ∧
      (smallOut [0x10, 4, 0, 0]).hint = 0 ∧ (smallOut [0x10, 4, 0, 0]).outFits 4) ∧
    ({ machine [0x10, 4, 0, 0] with hint := 2 }.headerAt + 4 ≤
        { machine [0x10, 4, 0, 0] with hint := 2 }.inLen.toNat ∧
      { machine [0x10, 4, 0, 0] with hint := 2 }.hint ≠ 0 ∧
      { machine [0x10, 4, 0, 0] with hint := 2 }.hint ≠ Format.lz10.code) ∧
    ((machine [0x10, 4, 0]).inLen.toNat < (machine [0x10, 4, 0]).headerAt + 4) ∧
    ((.dispatchRomchu 5, .romchu) ∈ ([(.dispatchN64lz 5, .n64lz), (.dispatchRomchu 5, .romchu)] :
        List (Instr × Format)) ∧
      4 ≤ { machine [0, 0, 0, 0x16] with hint := 6 }.inLen.toNat ∧
      { machine [0, 0, 0, 0x16] with hint := 6 }.hint = Format.romchu.code ∧
      { machine [0, 0, 0, 0x16] with hint := 6 }.outFits 5) ∧
    (4 ≤ { machine [0, 0, 0, 0x16] with hint := 3 }.inLen.toNat ∧
      { machine [0, 0, 0, 0x16] with hint := 3 }.hint ≠ Format.romchu.code) ∧
    { machine [0, 0, 0] with hint := 6 }.inLen.toNat < 4 :=
  ⟨covered rfl, by decide +kernel⟩

theorem witness_ReservedHeadersRaise :
    (machine [0x12, 1, 0, 0]).inCovered ∧
    (machine [0x12, 1, 0, 0]).headerAt + 4 ≤ (machine [0x12, 1, 0, 0]).inLen.toNat ∧
    (machine [0x12, 1, 0]).inLen.toNat < (machine [0x12, 1, 0]).headerAt + 4 ∧
    4 ≤ (machine [0, 0, 0, 4]).inLen.toNat ∧ (machine [0, 0, 0]).inLen.toNat < 4 :=
  ⟨covered rfl, by decide +kernel⟩

theorem witness_DispatchChoosesTheFormat :
    (machine taggedStream).inCovered ∧ (machine taggedStream).outFits 10 ∧
    ((.lz10, 0x10) ∈ ([(.lz10, 0x10), (.lz11, 0x11), (.huf8, 0x28), (.lzh8, 0x40)] : List (Format × Nat)) ∧
      (machine taggedStream).hint = 0 ∧
      (machine taggedStream).headerAt + 4 ≤ (machine taggedStream).inLen.toNat ∧
      leValue ((machine taggedStream).inBytes (machine taggedStream).headerAt 4) = 10 * 256 + 0x10) ∧
    ({ machine [0, 0, 0, 0x16] with hint := 6 }.hint = Format.romchu.code ∧
      4 ≤ { machine [0, 0, 0, 0x16] with hint := 6 }.inLen.toNat ∧
      { machine [0, 0, 0, 0x16] with hint := 6 }.outFits 5 ∧
      beValue ({ machine [0, 0, 0, 0x16] with hint := 6 }.inBytes 0 4) = 5 * 4 + 2) :=
  ⟨covered rfl, by decide +kernel⟩

theorem witness_DispatchRaisesInOrder :
    (machine [0x12, 1, 0, 0]).inCovered ∧
    { machine [] with hint := 7 }.hint = 7 ∧
    ({ machine [0, 0, 0] with hint := 6 }.hint = 6 ∧ { machine [0, 0, 0] with hint := 6 }.inLen.toNat < 4) ∧
    ((machine [0x10, 1, 0]).hint ≠ 7 ∧ (machine [0x10, 1, 0]).hint ≠ 3 ∧ (machine [0x10, 1, 0]).hint ≠ 6 ∧
      (machine [0x10, 1, 0]).inLen.toNat < (machine [0x10, 1, 0]).headerAt + 4) ∧
    ((machine [0x12, 1, 0, 0]).hint ≠ 7 ∧ (machine [0x12, 1, 0, 0]).hint ≠ 3 ∧ (machine [0x12, 1, 0, 0]).hint ≠ 6 ∧
      (machine [0x12, 1, 0, 0]).headerAt + 4 ≤ (machine [0x12, 1, 0, 0]).inLen.toNat ∧
      ∀ p ∈ ([(.lz10, 0x10), (.lz11, 0x11), (.huf8, 0x28), (.lzh8, 0x40)] : List (Format × Nat)),
        leValue ((machine [0x12, 1, 0, 0]).inBytes (machine [0x12, 1, 0, 0]).headerAt 4) % 256 = p.2 →
          (machine [0x12, 1, 0, 0]).hint ≠ 0 ∧ (machine [0x12, 1, 0, 0]).hint ≠ p.1.code) ∧
    ((smallOut [0x10, 5, 0, 0]).hint = 0 ∧
      (smallOut [0x10, 5, 0, 0]).headerAt + 4 ≤ (smallOut [0x10, 5, 0, 0]).inLen.toNat ∧
      (smallOut [0x10, 5, 0, 0]).cfg.outCapacity = some 4 ∧ 4 < 5 ∧
      leValue ((smallOut [0x10, 5, 0, 0]).inBytes (smallOut [0x10, 5, 0, 0]).headerAt 4) = 5 * 256 + 0x10) ∧
    ({ smallOut [0x28, 5, 0, 0] with hint := 4 }.hint = Format.huf8.code ∧
      leValue ({ smallOut [0x28, 5, 0, 0] with hint := 4 }.inBytes 0 4) = 5 * 256 + 0x28) ∧
    ({ smallOut [0, 0, 0, 0x16] with hint := 6 }.hint = Format.romchu.code ∧
      4 ≤ { smallOut [0, 0, 0, 0x16] with hint := 6 }.inLen.toNat ∧
      beValue ({ smallOut [0, 0, 0, 0x16] with hint := 6 }.inBytes 0 4) = 5 * 4 + 2) ∧
    (∀ hint ∈ ([3, 6] : List (BitVec 3)), ∀ b ∈ ([0x14, 0x17, if hint = 3 then 0x16 else 0x15] : List Byte),
      4 ≤ { machine [0, 0, 0, b] with hint := hint }.inLen.toNat ∧
      ∀ p ∈ ([(.n64lz, 1), (.romchu, 2)] : List (Format × Nat)),
        beValue ({ machine [0, 0, 0, b] with hint := hint }.inBytes 0 4) % 4 = p.2 → hint ≠ p.1.code) :=
  ⟨covered rfl, by decide +kernel⟩

theorem witness_BrInitCreatesAReader :
    0 ≤ 2 ∧ 2 ≤ (machine [1, 2]).inLen.toNat ∧ (some 16 : Option Nat).getD 0 ≤ (2 - 0) * 8 := by decide +kernel

/-- A reader over two bytes with three bits delivered. -/
def midReader : BitReader := { lo := 0, hi := 2, limit := 11, idx := 1, nbits := 5, cur := 0xA5 }

/-- The machine that holds it. -/
def midState : State := (machine [0xA5, 0x3C]).setReader midReader

theorem witness_ReadBitsDeliversTheStream :
    midState.inCovered ∧ midState.br = some midReader ∧ midState.ReaderOk midReader ∧
      midReader.pos + 8 ≤ midReader.limit ∧ midReader.limit < midReader.pos + 9 :=
  ⟨covered rfl, rfl, readerOk_of (by decide +kernel), by decide +kernel⟩

theorem witness_NextBitRefillsLazily :
    midState.inCovered ∧ midState.br = some midReader ∧ midReader.hi ≤ midState.inLen.toNat ∧
    (midReader.pos < midReader.limit ∧ midReader.nbits ≠ 0) ∧
    ({ midReader with limit := 3 }.limit ≤ { midReader with limit := 3 }.pos) ∧
    (BitReader.pos { midReader with hi := 1, limit := 9, nbits := 0 } < 9 ∧ 1 ≤ midReader.idx) ∧
    (BitReader.pos { midReader with limit := 9, nbits := 0 } < 9 ∧ midReader.idx < midReader.hi) :=
  ⟨covered rfl, rfl, by decide +kernel⟩

/-- Rule R73's example reader. -/
def padReader : BitReader := { lo := 0, hi := 1, limit := 3, idx := 1, nbits := 5, cur := 0xA0 }

theorem witness_CheckPadWantsZeroBits :
    ((machine [0xA0]).setReader padReader).inCovered ∧
    ((machine [0xA0]).setReader padReader).br = some padReader ∧
    ((machine [0xA0]).setReader padReader).ReaderOk padReader ∧
    (8 % 8 = 0 ∧ padReader.pos ≤ 8 ∧ 8 ≤ (padReader.hi - padReader.lo) * 8) ∧
    (∀ q < 8, padReader.pos ≤ q → ((machine [0xA0]).setReader padReader).streamBit padReader.lo q = false) ∧
    (((machine [0xA1]).setReader { padReader with cur := 0xA1 }).ReaderOk { padReader with cur := 0xA1 } ∧
      padReader.pos ≤ 7 ∧ ((machine [0xA1]).setReader padReader).streamBit padReader.lo 7 = true) :=
  ⟨covered rfl, rfl, readerOk_of (by decide +kernel), by decide +kernel, by decide +kernel,
    readerOk_of (by decide +kernel), by decide +kernel⟩

/-- A table of `n` lengths to be given. -/
def blankTable (n : Nat) : Table := { size := n, len := List.replicate n 0 }

/-- A machine about to read a run: COUNT 0, then a length 1. -/
def runState (n : Nat) : State := { reading (machine [0b00000000, 0b00100000]) 11 with t1 := blankTable n }

theorem witness_RunEqualGivesOneLength :
    (runState 2).inCovered ∧ (runState 2).br = some (BitReader.init 0 2 (some 11)) ∧
    (runState 2).ReaderOk (BitReader.init 0 2 (some 11)) ∧
    ((runState 2).table .t1).len.length = ((runState 2).table .t1).size ∧
    (0 + 7 + 4 ≤ 11 ∧ 0 + (bitsValue ((runState 2).streamBits 0 0 7) + 2) ≤ ((runState 2).table .t1).size) ∧
    (0 + 7 ≤ 11 ∧ ((runState 2).table .t1).size < 1 + (bitsValue ((runState 2).streamBits 0 0 7) + 2)) ∧
    ((runState 2).ReaderOk (BitReader.init 0 2 (some 6)) ∧ 6 < 0 + 7) ∧
    ((runState 2).ReaderOk (BitReader.init 0 2 (some 10)) ∧ 0 + 7 ≤ 10 ∧ 10 < 0 + 7 + 4) :=
  ⟨covered rfl, rfl, readerOk_of (by decide +kernel), by decide +kernel, by decide +kernel, by decide +kernel,
    ⟨readerOk_of (by decide +kernel), by decide⟩, ⟨readerOk_of (by decide +kernel), by decide, by decide⟩⟩

theorem witness_RunSetGivesEachItsLength :
    (runState 1).inCovered ∧ (runState 1).br = some (BitReader.init 0 2 (some 11)) ∧
    (runState 1).ReaderOk (BitReader.init 0 2 (some 11)) ∧
    ((runState 1).table .t1).len.length = ((runState 1).table .t1).size ∧
    (0 + 7 + (bitsValue ((runState 1).streamBits 0 0 7) + 1) * 4 ≤ 11 ∧
      0 + (bitsValue ((runState 1).streamBits 0 0 7) + 1) ≤ ((runState 1).table .t1).size) ∧
    (0 + 7 ≤ 11 ∧ ((runState 1).table .t1).size < 1 + (bitsValue ((runState 1).streamBits 0 0 7) + 1)) ∧
    ((runState 1).ReaderOk (BitReader.init 0 2 (some 6)) ∧ 6 < 0 + 7) ∧
    ((runState 1).ReaderOk (BitReader.init 0 2 (some 10)) ∧ 0 + 7 ≤ 10 ∧ 10 < 0 + 7 + 1 * 4) :=
  ⟨covered rfl, rfl, readerOk_of (by decide +kernel), by decide +kernel, by decide +kernel, by decide +kernel,
    ⟨readerOk_of (by decide +kernel), by decide⟩, ⟨readerOk_of (by decide +kernel), by decide, by decide⟩⟩

theorem witness_BuildRefusesExactlyOversubscribed :
    (treeOf exampleLens).length ≤ 15 ∧ buildTree Config.standard exampleLens = some (treeOf exampleLens) ∧
    (∀ c ∈ (some 14 : Option Nat), c < (treeOf exampleLens).length) ∧
    ((∀ l ∈ exampleLens, l ≤ Config.standard.maxCodeLen) ∧
      kraftSum Config.standard.maxCodeLen exampleLens ≤ 2 ^ Config.standard.maxCodeLen) ∧
    ((∀ l ∈ ([1, 1, 15] : List Nat), l ≤ Config.standard.maxCodeLen) ∧
      2 ^ Config.standard.maxCodeLen < kraftSum Config.standard.maxCodeLen [1, 1, 15]) := by decide +kernel

theorem witness_TreeDecodesTheCanonicalCode :
    (∀ l ∈ exampleLens, l ≤ Config.standard.maxCodeLen) ∧
      buildTree Config.standard exampleLens = some (treeOf exampleLens) := by decide +kernel

/-- A machine about to load the lengths 1, 2, 2 from 20 bits. -/
def loadState : State := { reading (machine [0x02, 0x12, 0x20]) 20 with cfg := smallAlphabets }

theorem witness_LoadReadsTheDescription :
    loadState.inCovered ∧ loadState.br = some (BitReader.init 0 3 (some 20)) ∧
    loadState.ReaderOk (BitReader.init 0 3 (some 20)) ∧
    loadState.Describes 0 0 20 3 smallRuns1 (treeOf [1, 2, 2]) :=
  ⟨covered rfl, rfl, readerOk_of (by decide +kernel),
    ⟨⟨by simp [smallRuns1, Run.fits, loadState, smallAlphabets], by decide +kernel, by decide +kernel,
      by decide +kernel⟩, by decide +kernel⟩⟩

/-- A description cut one bit short, a run past the last symbol, over-subscribed lengths, and a full arena. -/
theorem witness_LoadFails :
    loadState.LoadFails 0 0 19 3 .truncatedInput ∧ loadState.LoadFails 0 0 20 2 .huffmanTableCorrupt ∧
    (reading (machine [0x02, 0x11, 0x10]) 20).LoadFails 0 0 20 3 .huffmanTableCorrupt ∧
    { loadState with cfg := { arenaCapacity := some 4 } }.LoadFails 0 0 20 3 .huffmanTableCorrupt :=
  ⟨.cut smallRuns1 ⟨by simp [smallRuns1, Run.fits, loadState, smallAlphabets], by decide +kernel, by decide +kernel,
      by decide +kernel, by decide +kernel⟩,
    .runPast [] false 2 ⟨by simp, by decide +kernel, by decide +kernel, by decide +kernel, by decide +kernel,
      by decide +kernel⟩,
    .oversubscribed [.set [1, 1, 1]] ⟨by simp [Run.fits, reading, machine, State.reset, Config.standard, State.setReader],
      by decide +kernel, by decide +kernel, by decide +kernel⟩ (by decide +kernel),
    .arenaFull smallRuns1 (treeOf [1, 2, 2]) 4 ⟨by simp [smallRuns1, Run.fits], by decide +kernel, by decide +kernel,
      by decide +kernel⟩ (by decide +kernel) rfl (by decide +kernel)⟩

/-- A machine about to decode a symbol of rule R84's example tree, with `n` bits left. -/
def symbolState (b : Byte) (lens : List Nat) (n : Nat) : State :=
  { reading (machine [b]) n with t1 := { node := treeOf lens } }

theorem witness_DecodeSymbolWalksTheTree :
    (symbolState 0xE0 exampleLens 4).inCovered ∧
    ((symbolState 0xE0 exampleLens 4).br = some (BitReader.init 0 1 (some 4)) ∧
      (symbolState 0xE0 exampleLens 4).ReaderOk (BitReader.init 0 1 (some 4)) ∧ 0 + 4 ≤ 4 ∧
      treeSymbol (treeOf exampleLens) 0 ((symbolState 0xE0 exampleLens 4).streamBits 0 0 4) = some 6) ∧
    ((symbolState 0x80 [1] 1).ReaderOk (BitReader.init 0 1 (some 1)) ∧
      treeMissing (treeOf [1]) 0 ((symbolState 0x80 [1] 1).streamBits 0 0 1) = true) ∧
    ((symbolState 0xE0 exampleLens 3).ReaderOk (BitReader.init 0 1 (some 3)) ∧ 0 + 3 = 3 ∧
      treeInside (treeOf exampleLens) 0 ((symbolState 0xE0 exampleLens 3).streamBits 0 0 3) = true) :=
  ⟨covered rfl, ⟨rfl, readerOk_of (by decide +kernel), by decide +kernel⟩,
    ⟨readerOk_of (by decide +kernel), by decide +kernel⟩, ⟨readerOk_of (by decide +kernel), by decide +kernel⟩⟩

theorem witness_FlagByteIsTaken :
    (decoding .lzFlag [0x20] [] 1).inCovered ∧
    ((decoding .lzFlag [0x20] [] 1).host = [] ∧ (decoding .lzFlag [0x20] [] 1).phase = .lzFlag ∧
      (decoding .lzFlag [0x20] [] 1).ip < (decoding .lzFlag [0x20] [] 1).inLen.toNat) ∧
    ((decoding .lzFlag [] [] 1).inLen.toNat ≤ (decoding .lzFlag [] [] 1).ip) :=
  ⟨covered rfl, by decide +kernel⟩

/-- A machine about to take the token at `ip`, its flag bit given. -/
def tokenState (flag : Byte) (fmt : BitVec 3) (input output : List Byte) (declared : Nat) : State :=
  { decoding .lzToken input output declared with flag := flag, fcnt := 1, fmt := fmt }

theorem witness_LiteralIsStored :
    (tokenState 0 1 [0x41] [] 1).inCovered ∧
    ((tokenState 0 1 [0x41] [] 1).ip < (tokenState 0 1 [0x41] [] 1).inLen.toNat ∧
      (tokenState 0 1 [0x41] [] 1).oc < (tokenState 0 1 [0x41] [] 1).declared ∧
      (tokenState 0 1 [0x41] [] 1).host = [] ∧ (tokenState 0 1 [0x41] [] 1).phase = .lzToken ∧
      (tokenState 0 1 [0x41] [] 1).flag.getLsbD ((tokenState 0 1 [0x41] [] 1).fcnt - 1) = false) ∧
    (tokenState 0 1 [] [] 1).inLen.toNat ≤ (tokenState 0 1 [] [] 1).ip :=
  ⟨covered rfl, by decide +kernel⟩

theorem witness_CopyRepeatsTheWindow :
    (2 < 1 ∨ (decoding .lzToken [] [1] 9).oc < 2) ∧
    (1 ≤ 1 ∧ 1 ≤ (decoding .lzToken [] [1] 3).oc ∧
      (decoding .lzToken [] [1] 3).declared < (decoding .lzToken [] [1] 3).oc + 3) ∧
    (1 ≤ 1 ∧ 1 ≤ (decoding .lzToken [] [1] 4).oc ∧
      (decoding .lzToken [] [1] 4).oc + 3 ≤ (decoding .lzToken [] [1] 4).declared) := by decide +kernel

/-- The hypotheses of a back-reference's four cases, for a token of `n` bytes, at their boundaries. -/
theorem witness_BackReferencesCopy :
    (tokenState 1 1 [0x10, 0, 0, 0] [7] 274).inCovered ∧
    (tokenState 1 1 [0x10, 0, 0] [7] 274).inLen.toNat < (tokenState 1 1 [0x10, 0, 0] [7] 274).ip + 4 ∧
    ((tokenState 1 1 [0x10, 0, 0, 0] [7] 274).ip + 4 ≤ (tokenState 1 1 [0x10, 0, 0, 0] [7] 274).inLen.toNat ∧
      (tokenState 1 1 [0x10, 0, 0, 1] [7] 274).oc < (1 : BitVec 12).toNat + 1 ∧
      (0 : BitVec 12).toNat + 1 ≤ (tokenState 1 1 [0x10, 0, 0, 0] [7] 274).oc ∧
      (tokenState 1 1 [0x10, 0, 0, 0] [7] 274).oc + ((0 : BitVec 16).toNat + 273) ≤
        (tokenState 1 1 [0x10, 0, 0, 0] [7] 274).declared ∧
      (tokenState 1 1 [0x10, 0, 0, 0] [7] 273).declared <
        (tokenState 1 1 [0x10, 0, 0, 0] [7] 273).oc + ((0 : BitVec 16).toNat + 273)) :=
  ⟨covered rfl, by decide +kernel⟩

theorem witness_LzNextChoosesThePhase :
    (tokenState 0 1 [] [1] 1).oc = (tokenState 0 1 [] [1] 1).declared ∧
    ((tokenState 0 1 [] [] 1).oc ≠ (tokenState 0 1 [] [] 1).declared ∧ (tokenState 0 1 [] [] 1).fcnt - 1 = 0) ∧
    { tokenState 0 1 [] [] 1 with fcnt := 2 }.fcnt - 1 ≠ 0 := by decide +kernel

/-- The input of rule R102's example, its table complete. -/
def huf8Input : List Byte := [0x28, 4, 0, 0, 2, 0x80, 0x41, 0xC0, 0x42, 0x43]

theorem witness_Huf8SetupOpensThePool :
    (decoding .h8Setup huf8Input [] 4).inCovered ∧
    (3 = ((decoding .h8Setup huf8Input [] 4).inByte 4).toNat + 1 ∧ 5 = 2 * 3 - 1) ∧
    (decoding .h8Setup [0x28, 4, 0, 0] [] 4).inLen.toNat < 5 ∧
    (5 ≤ (decoding .h8Setup huf8Input [] 0).inLen.toNat ∧ (decoding .h8Setup huf8Input [] 0).declared = 0) ∧
    ((decoding .h8Setup [0x28, 4, 0, 0, 2] [] 4).declared ≠ 0 ∧
      (decoding .h8Setup [0x28, 4, 0, 0, 2] [] 4).inLen.toNat < 5 + 5) ∧
    5 + 5 ≤ (decoding .h8Setup huf8Input [] 4).inLen.toNat :=
  ⟨covered rfl, by decide +kernel⟩

theorem witness_PoolBitsComeFromWholeWords :
    (decoding .h8Walk [0, 0, 0, 0x58] [] 4).inCovered ∧ (decoding .h8Walk [0, 0, 0, 0x58] [] 4).poolReady ∧
    ((decoding .h8Walk [0, 0, 0, 0x58] [] 4).h8.pbits = 0 ∧
      (decoding .h8Walk [0, 0, 0, 0x58] [] 4).h8.pidx + 4 ≤ (decoding .h8Walk [0, 0, 0, 0x58] [] 4).inLen.toNat ∧
      (decoding .h8Walk [0, 0, 0, 0x58] [] 4).cfg.poolOrder = .wordLeMsbFirst) ∧
    ¬ (decoding .h8Walk [0, 0, 0x58] [] 4).poolReady :=
  ⟨covered rfl, by decide +kernel⟩

theorem witness_Huf8EdgesLeadToTheChild :
    (walker 0 0).inCovered ∧
    ((walker 0 0).h8.cur < (walker 0 0).h8.tsize ∧ 5 + (walker 0 0).h8.tsize ≤ (walker 0 0).inLen.toNat ∧
      (0x80 : Byte) = (walker 0 0).inByte (5 + (walker 0 0).h8.cur)) ∧
    ((walker 0 0).poolReady ∧ (walker 0 0).oc < (walker 0 0).declared ∧
      (0 + 1) / 2 * 2 + 1 + ((0x80 : Byte).toNat % 64) * 2 + (false).toNat < (walker 0 0).h8.tsize ∧
      (0x80 : Byte).getLsbD (if false then 6 else 7) = true) ∧
    ((0 + 1) / 2 * 2 + 1 + ((0x80 : Byte).toNat % 64) * 2 + (true).toNat < (walker 0 1).h8.tsize ∧
      (0x80 : Byte).getLsbD (if true then 6 else 7) = false) ∧
    ¬ { walker 0 0 with h8 := { (walker 0 0).h8 with pbits := 0 } }.poolReady ∧
    ((walker 3 0).inByte (5 + 3) = 0x42 ∧
      (walker 3 0).h8.tsize ≤ (3 + 1) / 2 * 2 + 1 + ((0x42 : Byte).toNat % 64) * 2 + (false).toNat) :=
  ⟨covered rfl, by decide +kernel⟩

theorem witness_LeavesAndChildChecks :
    (walker 2 1).inCovered ∧ (5 + 4 < (walker 2 1).inLen.toNat ∧ (walker 2 1).oc < (walker 2 1).declared) ∧
    (5 = (2 + 1) / 2 * 2 + 1 + (1 : BitVec 6).toNat * 2 + ((walker 2 0).h8.pw.getLsbD 1).toNat ∧
      (walker 2 0).h8.tsize ≤ 5) ∧
    (3 = (2 + 1) / 2 * 2 + 1 + (0 : BitVec 6).toNat * 2 + ((walker 2 0).h8.pw.getLsbD 1).toNat ∧
      3 < (walker 2 0).h8.tsize) :=
  ⟨covered rfl, by decide +kernel⟩

/-- An LZH8 machine with a zero 24-bit length and a second length. -/
def extended (bytes : List Byte) : State := decoding .lzh8Setup ([0x40, 0, 0, 0] ++ bytes) [] 0

theorem witness_Lzh8SecondLength :
    (extended [0, 0, 0, 0]).inCovered ∧ (extended [0, 0, 0, 0]).declared = 0 ∧
    { extended [] with cfg := { extLenMode := .error } }.cfg.extLenMode = .error ∧
    ((extended [0, 0, 0]).cfg.extLenMode = .read ∧ (extended [0, 0, 0]).inLen.toNat < 8) ∧
    (8 ≤ (extended [0, 0, 0, 0]).inLen.toNat ∧ leValue ((extended [0, 0, 0, 0]).inBytes 4 4) = 0) ∧
    ({ extended [5, 0, 0, 0] with cfg := { outCapacity := some 4 } }.cfg.extLenMode = .read ∧
      ¬ { extended [5, 0, 0, 0] with cfg := { outCapacity := some 4 } }.outFits
        (leValue ({ extended [5, 0, 0, 0] with cfg := { outCapacity := some 4 } }.inBytes 4 4))) :=
  ⟨covered rfl, by decide +kernel⟩

/-- The machine of rule R109's layout, with the length in the header. -/
def lzh8SetupState : State := { decoding .lzh8Setup lzh8Stream [] 5 with cfg := smallAlphabets }

/-- The same, with the length in the second field. -/
def lzh8SetupStateExt : State :=
  { decoding .lzh8Setup ([0x40, 0, 0, 0, 5, 0, 0, 0] ++ lzh8Stream.drop 4) [] 0 with cfg := smallAlphabets }

/-- The same stream as `lzh8SetupState`, cut after `n` bytes. -/
def lzh8Cut (n : Nat) : State := { decoding .lzh8Setup (lzh8Stream.take n) [] 5 with cfg := smallAlphabets }

/-- Either size field missing its last byte, either sub-stream missing its last byte, and a description that is cut by
its empty sub-stream. -/
theorem witness_Lzh8TableFails :
    (lzh8Cut 5).Lzh8TableFails 4 3 .truncatedInput ∧ (lzh8Cut 9).Lzh8TableFails 4 3 .truncatedInput ∧
    (lzh8Cut 11).Lzh8TableAt 4 (lzh8Cut 11).cfg.lzh8S1 1 smallRuns1 (treeOf [1, 2, 2]) ∧
    (lzh8Cut 11).Lzh8TableFails (4 + 2 + 4 * 1) 2 .truncatedInput ∧
    (lzh8Cut 15).Lzh8TableFails (4 + 2 + 4 * 1) 2 .truncatedInput ∧
    (decoding .lzh8Setup [0x40, 5, 0, 0, 0, 0] [] 5).Lzh8TableFails 4 3 .truncatedInput :=
  ⟨.field (by decide +kernel), .subStream 1 (by decide +kernel) (by decide +kernel) (by decide +kernel),
    ⟨by decide +kernel, by decide +kernel,
      ⟨⟨by simp [smallRuns1, Run.fits, lzh8Cut, smallAlphabets], by decide +kernel, by decide +kernel,
        by decide +kernel⟩, by decide +kernel⟩⟩,
    .field (by decide +kernel), .subStream 1 (by decide +kernel) (by decide +kernel) (by decide +kernel),
    .load 0 _ (by decide +kernel) (by decide +kernel)
      (.cut smallRuns1 ⟨by simp [smallRuns1, Run.fits, decoding, machine, State.reset, Config.standard],
        by decide +kernel, by decide +kernel, by decide +kernel, by decide +kernel⟩)⟩

theorem witness_Lzh8SetupLoadsBothTables :
    (lzh8SetupState.inCovered ∧ 5 ≠ 0 ∧ (lzh8SetupState.declared = 5 ∧ 4 = 4) ∧
      lzh8SetupState.Lzh8TableAt 4 lzh8SetupState.cfg.lzh8S1 1 smallRuns1 (treeOf [1, 2, 2]) ∧
      lzh8SetupState.Lzh8TableAt (4 + 2 + 4 * 1) lzh8SetupState.cfg.lzh8S2 1 smallRuns2 (treeOf [1, 1])) ∧
    (lzh8SetupStateExt.inCovered ∧
      (lzh8SetupStateExt.declared = 0 ∧ lzh8SetupStateExt.cfg.extLenMode = .read ∧
        8 ≤ lzh8SetupStateExt.inLen.toNat ∧ leValue (lzh8SetupStateExt.inBytes 4 4) = 5 ∧
        lzh8SetupStateExt.outFits 5) ∧
      lzh8SetupStateExt.Lzh8TableAt 8 lzh8SetupStateExt.cfg.lzh8S1 1 smallRuns1 (treeOf [1, 2, 2]) ∧
      lzh8SetupStateExt.Lzh8TableAt (8 + 2 + 4 * 1) lzh8SetupStateExt.cfg.lzh8S2 1 smallRuns2 (treeOf [1, 1])) :=
  ⟨⟨covered rfl, by decide, by decide +kernel,
      ⟨by decide +kernel, by decide +kernel,
        ⟨⟨by simp [smallRuns1, Run.fits, lzh8SetupState, smallAlphabets], by decide +kernel, by decide +kernel,
          by decide +kernel⟩, by decide +kernel⟩⟩,
      ⟨by decide +kernel, by decide +kernel,
        ⟨⟨by simp [smallRuns2, Run.fits, lzh8SetupState, smallAlphabets], by decide +kernel, by decide +kernel,
          by decide +kernel⟩, by decide +kernel⟩⟩⟩,
    ⟨covered rfl, by decide +kernel,
      ⟨by decide +kernel, by decide +kernel,
        ⟨⟨by simp [smallRuns1, Run.fits, lzh8SetupStateExt, smallAlphabets], by decide +kernel, by decide +kernel,
          by decide +kernel⟩, by decide +kernel⟩⟩,
      ⟨by decide +kernel, by decide +kernel,
        ⟨⟨by simp [smallRuns2, Run.fits, lzh8SetupStateExt, smallAlphabets], by decide +kernel, by decide +kernel,
          by decide +kernel⟩, by decide +kernel⟩⟩⟩⟩

theorem witness_Lzh8LiteralIsStored :
    (lzh8Body [0] [] 1 0x41 0).inCovered ∧ (lzh8Body [0] [] 1 0x41 0).br = some (BitReader.init 0 1 (some 8)) ∧
    (lzh8Body [0] [] 1 0x41 0).ReaderOk (BitReader.init 0 1 (some 8)) ∧
    (0 + 1 ≤ 8 ∧ treeSymbol (oneLeaf 0x41) 0 ((lzh8Body [0] [] 1 0x41 0).streamBits 0 0 1) = some 0x41 ∧
      (lzh8Body [0] [] 1 0x41 0).oc < (lzh8Body [0] [] 1 0x41 0).declared) :=
  ⟨covered rfl, rfl, readerOk_of (by decide +kernel), by decide +kernel⟩

/-- A literal's code cut by the end of the body, and an absent child. -/
theorem witness_Lzh8LiteralRaises :
    (reading (lzh8Body [0] [] 1 0x41 0) 0).ReaderOk (BitReader.init 0 1 (some 0)) ∧
    treeInside (oneLeaf 0x41) 0 ((lzh8Body [0] [] 1 0x41 0).streamBits 0 0 0) = true ∧
    treeMissing (oneLeaf 0x41) 0 ((lzh8Body [0x80] [] 1 0x41 0).streamBits 0 0 1) = true :=
  ⟨readerOk_of (by decide +kernel), by decide +kernel⟩

/-- The body of rule R111's example. -/
def lzh8RefState (declared : Nat) : State := lzh8Body [0] [0x41, 0x42, 0x43] declared 0x101 2

theorem witness_Lzh8ReferenceCopies :
    (lzh8RefState 7).inCovered ∧ (lzh8RefState 7).br = some (BitReader.init 0 1 (some 8)) ∧
    (lzh8RefState 7).ReaderOk (BitReader.init 0 1 (some 8)) ∧
    (0 + 1 + 1 + (2 - 1) ≤ 8 ∧ treeSymbol (lzh8RefState 7).t1.node 0 ((lzh8RefState 7).streamBits 0 0 1) = some 0x101 ∧
      treeSymbol (lzh8RefState 7).t2.node 0 ((lzh8RefState 7).streamBits 0 1 1) = some 2 ∧
      2 = 2 ^ (2 - 1) + bitsValue ((lzh8RefState 7).streamBits 0 2 (2 - 1))) ∧
    (2 + 1 ≤ (lzh8RefState 7).oc ∧ (lzh8RefState 7).oc + ((1 : BitVec 8).toNat + 3) ≤ (lzh8RefState 7).declared) ∧
    (lzh8RefState 6).declared < (lzh8RefState 6).oc + ((1 : BitVec 8).toNat + 3) ∧
    (lzh8Body [0] [0x41, 0x42] 7 0x101 2).oc < 2 + 1 :=
  ⟨covered rfl, rfl, readerOk_of (by decide +kernel), by decide +kernel⟩

/-- The reads of a back-reference behind its first code, each cut by the limit, and an absent child of T2. -/
theorem witness_Lzh8ReferenceRaises :
    ((reading (lzh8RefState 7) 1).ReaderOk (BitReader.init 0 1 (some 1)) ∧ 0 + 1 + 0 = 1 ∧
      treeInside (lzh8RefState 7).t2.node 0 ((lzh8RefState 7).streamBits 0 1 0) = true) ∧
    ((reading (lzh8RefState 7) 2).ReaderOk (BitReader.init 0 1 (some 2)) ∧ 2 < 0 + 1 + 1 + (2 - 1)) ∧
    treeMissing (lzh8Body [0x40] [] 7 0x101 2).t2.node 0 ((lzh8Body [0x40] [] 7 0x101 2).streamBits 0 1 1) = true :=
  ⟨⟨readerOk_of (by decide +kernel), by decide +kernel⟩, ⟨readerOk_of (by decide +kernel), by decide⟩,
    by decide +kernel⟩

theorem witness_DisplacementsHaveALeadingOne :
    1 ≤ (1 : BitVec 5).toNat ∧ 1 ≤ (31 : BitVec 5).toNat ∧
    (reading (machine [0x40, 0, 0, 0]) 32).inCovered ∧
    (reading (machine [0x40, 0, 0, 0]) 32).br = some (BitReader.init 0 4 (some 32)) ∧
    (reading (machine [0x40, 0, 0, 0]) 32).ReaderOk (BitReader.init 0 4 (some 32)) ∧
    BitReader.pos (BitReader.init 0 4 (some 32)) + ((31 : BitVec 5).toNat - 1) ≤ 32 ∧
    ((reading (machine [0x40, 0, 0, 0]) 29).ReaderOk (BitReader.init 0 4 (some 29)) ∧
      29 < BitReader.pos (BitReader.init 0 4 (some 29)) + ((31 : BitVec 5).toNat - 1)) :=
  ⟨by decide, by decide, covered rfl, rfl, readerOk_of (by decide +kernel), by decide +kernel,
    readerOk_of (by decide +kernel), by decide +kernel⟩

/-- A raw block of two bytes. -/
def rawState (declared : Nat) : State := decoding .rcBlock [0, 0, 0, 2, 0x48, 0x69] [] declared

theorem witness_RawBlockIsCopied :
    (rawState 2).inCovered ∧
    ((rawState 2).ip + 4 ≤ (rawState 2).inLen.toNat ∧
      beValue ((rawState 2).inBytes (rawState 2).ip 4) = (2 : BitVec 31).toNat) ∧
    ((rawState 2).oc + 2 ≤ (rawState 2).declared ∧ (rawState 2).ip + 4 + 2 ≤ (rawState 2).inLen.toNat) ∧
    (rawState 1).declared < (rawState 1).oc + 2 ∧
    (decoding .rcBlock [0, 0, 0, 2, 0x48] [] 2).inLen.toNat < (decoding .rcBlock [0, 0, 0, 2, 0x48] [] 2).ip + 4 + 2 :=
  ⟨covered rfl, by decide +kernel⟩

theorem witness_BlockHeaderSelectsItsRow :
    (rawState 2).inCovered ∧ { rawState 2 with ip := 6 }.ip = { rawState 2 with ip := 6 }.inLen.toNat ∧
    ({ rawState 2 with ip := 3 }.ip < { rawState 2 with ip := 3 }.inLen.toNat ∧
      { rawState 2 with ip := 3 }.inLen.toNat < { rawState 2 with ip := 3 }.ip + 4) ∧
    ((rawState 2).ip + 4 ≤ (rawState 2).inLen.toNat ∧
      beValue ((rawState 2).inBytes (rawState 2).ip 4) = (2 : BitVec 31).toNat) ∧
    beValue (rcBlockState.inBytes rcBlockState.ip 4) = 0x80000000 + (76 : BitVec 31).toNat :=
  ⟨covered rfl, by decide +kernel⟩

/-- A Romchu table whose parts have been checked one by one. -/
theorem rcTableAt_of {s : State} {payload p n size tsz : Nat} {runs : List Run} {nodes : List Node}
    (hf : ∀ r ∈ runs, r.fits s.cfg)
    (h : p % 8 = 0 ∧ bitsValue (s.streamBits payload p 16) = tsz ∧ rcTableEnd p tsz ≤ n ∧
      (runsLens runs).length = size ∧ 0 + (runsBits s.cfg runs).length ≤ tsz ∧
      s.streamBits (payload + (p + 16) / 8) 0 (runsBits s.cfg runs).length = runsBits s.cfg runs ∧
      buildTree s.cfg (runsLens runs) = some nodes ∧
      ∀ q < 8 * ceil8 tsz, (runsBits s.cfg runs).length ≤ q → s.streamBit (payload + (p + 16) / 8) q = false) :
    s.RcTableAt payload p n size tsz runs nodes :=
  ⟨h.1, h.2.1, h.2.2.1, ⟨⟨hf, h.2.2.2.1, h.2.2.2.2.1, h.2.2.2.2.2.1⟩, h.2.2.2.2.2.2.1⟩,
    fun q h1 h2 => h.2.2.2.2.2.2.2 q h2 h1⟩

theorem witness_BlockTableIsLoaded :
    rcTableState.inCovered ∧
    (0 % 8 = 0 ∧ rcTableState.rc.next = rcTableState.rc.payload + ceil8 rcTableState.rc.n ∧
      rcTableState.rc.next ≤ rcTableState.inLen.toNat) ∧
    rcTableState.RcTableAt rcTableState.rc.payload 0 rcTableState.rc.n 3 20 smallRuns1 (treeOf [1, 2, 2]) ∧
    rcTableState.RcTableFails rcTableState.rc.payload 64 rcTableState.rc.n 3 .truncatedInput :=
  ⟨covered rfl, by decide +kernel,
    rcTableAt_of (by simp [smallRuns1, Run.fits, rcTableState, rcBlockState, smallAlphabets]) (by decide +kernel),
    .field (by decide)⟩

/-- The block of `rcTableState` with another size field and another third byte of its first description. -/
def rcTableBytes (tsz b : Byte) : State :=
  { rcTableState with inMem := listed 0 [0x80, 0, 0, 76, 0, tsz, 0x02, 0x12, b, 0, 12, 0x80, 0x10, 0b01000000] }

/-- A size field and a sub-stream past the block, a description cut by its size field, and a 1 in the last padding
bit. -/
theorem witness_RcTableFails :
    rcTableState.RcTableFails 4 64 76 3 .truncatedInput ∧ rcTableState.RcTableFails 4 56 76 3 .truncatedInput ∧
    (rcTableBytes 16 0x20).RcTableFails 4 0 76 3 .truncatedInput ∧
    (rcTableBytes 20 0x21).RcTableFails 4 0 76 3 .huffmanTableCorrupt :=
  ⟨.field (by decide), .subStream 0x8010 (by decide) (by decide +kernel) (by decide +kernel),
    .load 16 _ (by decide +kernel) (by decide +kernel)
      (.cut smallRuns1 ⟨by simp [smallRuns1, Run.fits, rcTableBytes, rcTableState, rcBlockState, smallAlphabets],
        by decide +kernel, by decide +kernel, by decide +kernel, by decide +kernel⟩),
    .padding 20 smallRuns1 (treeOf [1, 2, 2]) 23 (by decide +kernel) (by decide +kernel)
      ⟨⟨by simp [smallRuns1, Run.fits, rcTableBytes, rcTableState, rcBlockState, smallAlphabets], by decide +kernel,
        by decide +kernel, by decide +kernel⟩, by decide +kernel⟩
      (by decide +kernel) (by decide +kernel) (by decide +kernel)⟩

theorem witness_CompressedBlockOpensItsBody :
    rcBlockState.inCovered ∧ rcBlockState.ip + 4 ≤ rcBlockState.inLen.toNat ∧
    beValue (rcBlockState.inBytes rcBlockState.ip 4) = 0x80000000 + (76 : BitVec 31).toNat ∧
    rcBlockState.ip + 4 + ceil8 (76 : BitVec 31).toNat ≤ rcBlockState.inLen.toNat ∧
    rcBlockState.RcTableAt (rcBlockState.ip + 4) 0 (76 : BitVec 31).toNat rcBlockState.cfg.rcS1 20 smallRuns1
      (treeOf [1, 2, 2]) ∧
    rcBlockState.RcTableAt (rcBlockState.ip + 4) (rcTableEnd 0 20) (76 : BitVec 31).toNat rcBlockState.cfg.rcS2 12
      smallRuns2 (treeOf [1, 1]) ∧
    (decoding .rcBlock (rcStream.take 13) [] 4).inLen.toNat <
      (decoding .rcBlock (rcStream.take 13) [] 4).ip + 4 + ceil8 (76 : BitVec 31).toNat :=
  ⟨covered rfl, by decide +kernel, by decide +kernel, by decide +kernel,
    rcTableAt_of (by simp [smallRuns1, Run.fits, rcBlockState, smallAlphabets]) (by decide +kernel),
    rcTableAt_of (by simp [smallRuns2, Run.fits, rcBlockState, smallAlphabets]) (by decide +kernel),
    by decide +kernel⟩

theorem witness_RcLiteralIsStored :
    (rcBody [] 1 0x61 0 1).inCovered ∧ (rcBody [] 1 0x61 0 1).br = some (BitReader.init 0 1 (some 1)) ∧
    (rcBody [] 1 0x61 0 1).ReaderOk (BitReader.init 0 1 (some 1)) ∧
    (0 + 1 ≤ 1 ∧ treeSymbol (rcBody [] 1 0x61 0 1).t1.node 0 ((rcBody [] 1 0x61 0 1).streamBits 0 0 1) = some 0x61 ∧
      (rcBody [] 1 0x61 0 1).oc < (rcBody [] 1 0x61 0 1).declared) ∧
    (rcBody [7] 1 0x61 0 1).oc = (rcBody [7] 1 0x61 0 1).declared ∧
    treeMissing [{}] 0 ((rcBody [7] 1 0x61 0 1).streamBits 0 0 1) = true ∧
    (0 + 0 = (BitReader.init 0 1 (some 0)).limit ∧
      treeInside (rcBody [7] 1 0x61 0 0).t1.node 0 ((rcBody [7] 1 0x61 0 0).streamBits 0 0 0) = true) :=
  ⟨covered rfl, rfl, readerOk_of (by decide +kernel), by decide +kernel⟩

theorem witness_RcReferenceCopies :
    (rcBody [0x61, 0x62] 6 0x101 1 2).inCovered ∧
    (rcBody [0x61, 0x62] 6 0x101 1 2).br = some (BitReader.init 0 1 (some 2)) ∧
    (rcBody [0x61, 0x62] 6 0x101 1 2).ReaderOk (BitReader.init 0 1 (some 2)) ∧
    (lengthClasses[(1 : BitVec 8).toNat]? = some (4, 0) ∧ distanceClasses[1]? = some (2, 0) ∧
      0 + 1 + 1 + 0 + 0 ≤ 2 ∧
      treeSymbol (rcBody [0x61, 0x62] 6 0x101 1 2).t1.node 0
        ((rcBody [0x61, 0x62] 6 0x101 1 2).streamBits 0 0 1) = some 0x101 ∧
      treeSymbol (rcBody [0x61, 0x62] 6 0x101 1 2).t2.node 0
        ((rcBody [0x61, 0x62] 6 0x101 1 2).streamBits 0 1 1) = some 1 ∧
      4 = 4 + bitsValue ((rcBody [0x61, 0x62] 6 0x101 1 2).streamBits 0 2 0) ∧
      2 = 2 + bitsValue ((rcBody [0x61, 0x62] 6 0x101 1 2).streamBits 0 2 0)) ∧
    (2 ≤ (rcBody [0x61, 0x62] 6 0x101 1 2).oc ∧
      (rcBody [0x61, 0x62] 6 0x101 1 2).oc + 4 ≤ (rcBody [0x61, 0x62] 6 0x101 1 2).declared) ∧
    (rcBody [0x61] 6 0x101 1 2).oc < 2 ∧
    (rcBody [0x61, 0x62] 5 0x101 1 2).declared < (rcBody [0x61, 0x62] 5 0x101 1 2).oc + 4 :=
  ⟨covered rfl, rfl, readerOk_of (by decide +kernel), by decide +kernel⟩

/-- The reads of a back-reference behind its first code, each cut by the limit, an absent child of T2, and a symbol
outside the distance classes. -/
theorem witness_RcReferenceRaises :
    ((rcBody [0x61, 0x62] 6 0x108 4 1).ReaderOk (BitReader.init 0 1 (some 1)) ∧ 0 + 1 + 0 = 1 ∧
      treeInside (oneLeaf 4) 0 ((rcBody [0x61, 0x62] 6 0x108 4 1).streamBits 0 1 0) = true) ∧
    ((rcBody [0x61, 0x62] 6 0x108 4 3).ReaderOk (BitReader.init 0 1 (some 3)) ∧
      lengthClasses[(8 : BitVec 8).toNat]? = some (11, 1) ∧ distanceClasses[4]? = some (5, 1) ∧
      2 < 0 + 1 + 1 + 1 + 1 ∧ 3 < 0 + 1 + 1 + 1 + 1) ∧
    treeMissing (oneLeaf 4) 0 ((lzh8Body [0x40] [] 7 0x108 4).streamBits 0 1 1) = true ∧
    (treeSymbol (rcBody [0x61, 0x62] 6 0x108 30 3).t2.node 0 ((rcBody [0x61, 0x62] 6 0x108 30 3).streamBits 0 1 1) =
      some 30 ∧ 0 + 1 + 1 + 1 ≤ 3) :=
  ⟨⟨readerOk_of (by decide +kernel), by decide +kernel⟩, ⟨readerOk_of (by decide +kernel), by decide +kernel⟩,
    by decide +kernel, by decide +kernel⟩

theorem witness_ClassesAddTheirExtraBits :
    (reading (machine [0x80, 0x7F]) 13).inCovered ∧
    (reading (machine [0x80, 0x7F]) 13).br = some (BitReader.init 0 2 (some 13)) ∧
    (reading (machine [0x80, 0x7F]) 13).ReaderOk (BitReader.init 0 2 (some 13)) ∧
    (lengthClasses[0]? = some (3, 0) ∧ lengthClasses[27]? = some (227, 5) ∧ 0 + 5 ≤ 13) ∧
    (distanceClasses[(29 : BitVec 5).toNat]? = some (24577, 13) ∧ 0 + 13 ≤ 13) ∧
    (BitReader.pos { BitReader.init 0 2 (some 13) with idx := 2, nbits := 7 } = 9 ∧ 13 < 9 + 5 ∧ 13 < 9 + 13) :=
  ⟨covered rfl, rfl, readerOk_of (by decide +kernel), by decide +kernel⟩

theorem witness_BodiesEndByLengthOrByBlock :
    ((rcBody [7] 1 0 0 0).oc = (rcBody [7] 1 0 0 0).declared ∧
      (rcBody [7] 1 0 0 0).br = some (BitReader.init 0 1 (some 0)) ∧ 0 ≤ BitReader.pos (BitReader.init 0 1 (some 0))) ∧
    (rcBody [7] 2 0 0 0).oc ≠ (rcBody [7] 2 0 0 0).declared ∧
    ((rcBody [7] 1 0 0 1).br = some (BitReader.init 0 1 (some 1)) ∧
      BitReader.pos (BitReader.init 0 1 (some 1)) < 1) := by decide +kernel

/-- Rule R32: a read while no reader exists raises an error, and the call ends. -/
theorem test_absent_reader : errorOf (exec .brRefill (machine [1])) = some (2, true) := by decide +kernel

theorem witness_WhatDoesNotExistIsNotDelivered :
    State.reset.br = none ∧
    ({ decoding .lzFlag [1, 2] [] 1 with ip := 1, cfg := { inCapacity := some 1 } }.ip <
        { decoding .lzFlag [1, 2] [] 1 with ip := 1, cfg := { inCapacity := some 1 } }.inLen.toNat ∧
      { decoding .lzFlag [1, 2] [] 1 with ip := 1, cfg := { inCapacity := some 1 } }.cfg.inCapacity = some 1 ∧
      1 ≤ { decoding .lzFlag [1, 2] [] 1 with ip := 1, cfg := { inCapacity := some 1 } }.ip) ∧
    29 ≤ 29 ∧ 30 ≤ (30 : BitVec 5).toNat := by decide +kernel

theorem witness_DecodeInvertsEncode :
    (Instr.lz11RefMed 0xFFFF 0xFFF).wf = true ∧
      encode (.lz11RefMed 0xFFFF 0xFFF) = some ⟨.lz11Info16, 0x1FFF, [0xFF, 0xFF]⟩ := by decide +kernel

theorem witness_DecodedOperationsAreWellFormed :
    decode .lz11Info16 0x1FFF [0xFF, 0xFF] = .ok (.lz11RefMed 0xFFFF 0xFFF) := by decide +kernel

theorem witness_StepRunsTheDecodedOperation :
    ((machine []).host = [] ∧ (machine []).inCovered ∧ (machine []).phase = .dispatch) ∧
    ((decoding .lzFlag [0x20] [] 1).phase = .lzFlag ∧
      (decoding .lzFlag [0x20] [] 1).ip + 1 ≤ (decoding .lzFlag [0x20] [] 1).inLen.toNat ∧
      decode .lzFlag8 ((decoding .lzFlag [0x20] [] 1).inByte 0).toNat [] = .ok (.lzFlags 0x20)) ∧
    ((tokenState 0 1 [0x41] [] 1).flagBit = false ∧
      decode .lzFlagbit 0 [(tokenState 0 1 [0x41] [] 1).inByte 0] = .ok (.lzLit 0x41)) ∧
    ((tokenState 1 3 [0x50, 0x01] [] 1).flagBit = true ∧ (tokenState 1 3 [0x50, 0x01] [] 1).fmt = 3 ∧
      (tokenState 1 3 [0x50, 0x01] [] 1).ip + 2 ≤ (tokenState 1 3 [0x50, 0x01] [] 1).inLen.toNat ∧
      decode .lz10Tok16 (beValue ((tokenState 1 3 [0x50, 0x01] [] 1).inBytes 0 2)) [] = .ok (.lz10Ref 5 1)) ∧
    ((tokenState 1 2 [0, 0x30, 0] [] 1).fmt = 2 ∧
      0 + 2 + lz11ExtraBytes (beValue ((tokenState 1 2 [0, 0x30, 0] [] 1).inBytes 0 2)) ≤
        (tokenState 1 2 [0, 0x30, 0] [] 1).inLen.toNat ∧
      decode .lz11Info16 (beValue ((tokenState 1 2 [0, 0x30, 0] [] 1).inBytes 0 2))
        ((tokenState 1 2 [0, 0x30, 0] [] 1).inBytes 2
          (lz11ExtraBytes (beValue ((tokenState 1 2 [0, 0x30, 0] [] 1).inBytes 0 2)))) =
        .ok (.lz11RefLong 3 0)) ∧
    ((walker 0 1).phase = .h8Walk ∧ (walker 0 1).poolReady ∧
      decode .h8Bit ((walker 0 1).pooled.pw.getLsbD (walker 0 1).pooled.pbits).toNat [] = .ok .h8Bit1) ∧
    ((lzh8Body [0] [] 1 0x41 0).br = some (BitReader.init 0 1 (some 8)) ∧
      (lzh8Body [0] [] 1 0x41 0).ReaderOk (BitReader.init 0 1 (some 8)) ∧
      treeSymbol (lzh8Body [0] [] 1 0x41 0).t1.node 0 ((lzh8Body [0] [] 1 0x41 0).streamBits 0 0 1) = some 0x41 ∧
      (lzh8Body [0] [] 1 0x41 0).phase = .lzh8Body ∧ (rcBody [] 1 0x41 0 8).phase = .rcBody ∧
      decode .lzh8Sym1 0x41 [] = .ok (.lzh8Lit 0x41) ∧ decode .rcSym1 0x41 [] = .ok (.rcLit 0x41)) :=
  ⟨⟨rfl, covered rfl, rfl⟩, by decide +kernel, by decide +kernel, by decide +kernel, by decide +kernel,
    by decide +kernel, ⟨rfl, readerOk_of (by decide +kernel), by decide +kernel⟩⟩

/-- The selection's raises, each with its last byte or bit missing. -/
theorem witness_SelectionRaises :
    (decoding .lzFlag [] [] 1).inLen.toNat < (decoding .lzFlag [] [] 1).ip + 1 ∧
    (tokenState 0 1 [] [] 1).inLen.toNat < (tokenState 0 1 [] [] 1).ip + 1 ∧
    ((tokenState 1 3 [0x50] [] 1).flagBit = true ∧
      (tokenState 1 3 [0x50] [] 1).inLen.toNat < (tokenState 1 3 [0x50] [] 1).ip + 2) ∧
    ((tokenState 1 2 [0, 0x30] [] 1).ip + 2 ≤ (tokenState 1 2 [0, 0x30] [] 1).inLen.toNat ∧
      (tokenState 1 2 [0, 0x30] [] 1).inLen.toNat <
        0 + 2 + lz11ExtraBytes (beValue ((tokenState 1 2 [0, 0x30] [] 1).inBytes 0 2))) ∧
    ((decoding .h8Walk [0, 0, 0x58] [] 4).phase = .h8Walk ∧ ¬ (decoding .h8Walk [0, 0, 0x58] [] 4).poolReady) ∧
    ((lzh8Body [0x80] [] 1 0x41 0).ReaderOk (BitReader.init 0 1 (some 8)) ∧
      (lzh8Body [0x80] [] 1 0x41 0).phase = .lzh8Body ∧
      treeMissing (lzh8Body [0x80] [] 1 0x41 0).t1.node 0 ((lzh8Body [0x80] [] 1 0x41 0).streamBits 0 0 1) = true) ∧
    ((rcBody [] 1 0x41 0 0).ReaderOk (BitReader.init 0 1 (some 0)) ∧ (rcBody [] 1 0x41 0 0).phase = .rcBody ∧
      treeInside (rcBody [] 1 0x41 0 0).t1.node 0 ((rcBody [] 1 0x41 0 0).streamBits 0 0 0) = true) :=
  ⟨by decide +kernel, by decide +kernel, by decide +kernel, by decide +kernel, by decide +kernel,
    ⟨readerOk_of (by decide +kernel), by decide +kernel⟩, ⟨readerOk_of (by decide +kernel), by decide +kernel⟩⟩

theorem witness_NoOperationWritesItsInput :
    after (exec (.lzLit 0x41) (tokenState 0 1 [0x41] [] 1)) State.oc = some 1 := by decide +kernel

theorem witness_OutIsWrittenOnlyInside :
    after (exec (.lz10Ref 0 0) (tokenState 1 1 [0, 0] [7] 4)) State.oc = some 4 ∧
      0 < (tokenState 1 1 [0, 0] [7] 4).oc ∧ (tokenState 1 1 [0, 0] [7] 4).declared ≤ 4 := by decide +kernel

/-- A running call in phase LZ_TOKEN that meets the invariant. -/
def liveState : State :=
  { tokenState 0 1 [0x41] [] 1 with status := { busy := true, format := 1 } }

theorem live_inv : liveState.Inv :=
  ⟨by decide +kernel, by decide +kernel,
    by
      refine ⟨by decide +kernel, ?_, by decide +kernel⟩
      exact { length := by decide +kernel, cursor := by decide +kernel, format := by decide +kernel,
              open_ := by decide +kernel, count := by decide +kernel, kind := by decide +kernel,
              input := by decide +kernel }⟩

theorem witness_StepKeepsTheInvariant :
    liveState.Inv ∧ after (step liveState) State.phase = some .done := ⟨live_inv, by decide +kernel⟩

theorem witness_EngineAlwaysProceeds :
    liveState.Inv ∧ liveState.inCovered ∧ alphabetsOk liveState.cfg ∧ liveState.host = [] :=
  ⟨live_inv, covered rfl, by decide +kernel, rfl⟩

/-- An idle machine with a stream loaded. -/
def loaded : State := { State.reset with inMem := listed 0 taggedStream, inLen := 8 }

theorem witness_EveryCallTerminates :
    loaded.Inv ∧ loaded.inCovered ∧ alphabetsOk loaded.cfg ∧ loaded.host = [] ∧ loaded.status.busy = false ∧
      after (exec .cmdStart loaded) State.phase = some .dispatch :=
  ⟨⟨by decide +kernel, by decide +kernel, by show loaded.status.neverRun; decide +kernel⟩, covered rfl,
    by decide +kernel, rfl, rfl, by decide +kernel⟩

theorem witness_BytesPastInLenNeverMatter :
    liveState.host = [] ∧ liveState.withIn (listed 0 [0x41, 0xFF]) ≠ liveState ∧
      ∀ a < liveState.inLen.toNat, (liveState.withIn (listed 0 [0x41, 0xFF])).inByte a = liveState.inByte a := by
  decide +kernel

/-- The same stream in a machine that has failed before, with other bytes past IN_LEN and in OUT. -/
def loadedAgain : State :=
  { loaded.raise .lengthMismatch with
    inMem := listed 0 (taggedStream ++ [1]), outMem := listed 0 [9, 9] }

theorem witness_DecodeDependsOnItsInputOnly :
    loaded.status.busy = false ∧ loadedAgain.status.busy = false ∧ loaded.host = [] ∧ loadedAgain.host = [] ∧
      loadedAgain.hint = loaded.hint ∧ loadedAgain.inLen = loaded.inLen ∧ loadedAgain.cfg = loaded.cfg ∧
      (∀ a < loaded.inLen.toNat, loadedAgain.inByte a = loaded.inByte a) ∧
      after (exec .cmdStart loaded) State.phase = some .dispatch ∧
      after (exec .cmdStart loadedAgain) State.phase = some .dispatch := by decide +kernel

end Sys2Proof.Tests
end

namespace Sys2Proof.Machine

/-! ## A call depends on its input alone (20_memory.md rule R42)

Two machines run the same call side by side. They share every register; their memories, and the model's own counts,
may differ. `State.Twin` is the relation that holds while the call runs, `State.Matched` adds its end, and every
operation the engine runs is shown to keep them. -/

/-! ### Two machines in the same call -/

/-- The part of a machine that a call does not share with its twin: both memories and what is the model's own. -/
structure Surroundings where
  inMem : Memory
  outMem : Memory
  hostData : Word32
  ret : Nat
  errors : Nat
  resets : Nat

/-- A machine's own surroundings. -/
def State.surroundings (s : State) : Surroundings where
  inMem := s.inMem
  outMem := s.outMem
  hostData := s.hostData
  ret := s.ret
  errors := s.errors
  resets := s.resets

/-- The same registers in other surroundings. -/
def State.amid (s : State) (x : Surroundings) : State :=
  { s with
    inMem := x.inMem, outMem := x.outMem, hostData := x.hostData, ret := x.ret, errors := x.errors
    resets := x.resets }

theorem State.surroundings_amid (s : State) (x : Surroundings) : (s.amid x).surroundings = x := rfl

/-- Two machines in the middle of the same call: the same registers, the same input, the same output so far. The last
three fields are what the end of the call needs: no output is valid yet, OUT_LEN is covered by L, no host turn comes. -/
structure State.Twin (s s' : State) : Prop where
  same : ∃ x, s' = s.amid x
  input : ∀ a < s.inLen.toNat, s'.inByte a = s.inByte a
  output : ∀ a < s.oc, s'.outByte a = s.outByte a
  invalid : s.status.outValid = false
  length : s.outLen.toNat ≤ s.declared
  host : s.host = []

section Registers
variable {s s' : State}

theorem State.Twin.inLen (h : s.Twin s') : s'.inLen = s.inLen := by obtain ⟨x, rfl⟩ := h.same; rfl
theorem State.Twin.phase (h : s.Twin s') : s'.phase = s.phase := by obtain ⟨x, rfl⟩ := h.same; rfl
theorem State.Twin.status (h : s.Twin s') : s'.status = s.status := by obtain ⟨x, rfl⟩ := h.same; rfl
theorem State.Twin.outLen (h : s.Twin s') : s'.outLen = s.outLen := by obtain ⟨x, rfl⟩ := h.same; rfl
theorem State.Twin.br (h : s.Twin s') : s'.br = s.br := by obtain ⟨x, rfl⟩ := h.same; rfl
theorem State.Twin.declared (h : s.Twin s') : s'.declared = s.declared := by obtain ⟨x, rfl⟩ := h.same; rfl
theorem State.Twin.oc (h : s.Twin s') : s'.oc = s.oc := by obtain ⟨x, rfl⟩ := h.same; rfl
theorem State.Twin.h8 (h : s.Twin s') : s'.h8 = s.h8 := by obtain ⟨x, rfl⟩ := h.same; rfl
theorem State.Twin.cfg (h : s.Twin s') : s'.cfg = s.cfg := by obtain ⟨x, rfl⟩ := h.same; rfl
theorem State.Twin.table (h : s.Twin s') (t : TableId) : s'.table t = s.table t := by
  obtain ⟨x, rfl⟩ := h.same
  cases t <;> rfl

theorem State.Twin.host' (h : s.Twin s') : s'.host = [] := by
  obtain ⟨⟨x, rfl⟩, -, -, -, -, hhost⟩ := h
  exact hhost

end Registers

/-- Two machines whose call has ended alike (rules R132, R136). -/
structure State.EndedAlike (s s' : State) : Prop where
  status : s'.status = s.status
  outLen : s'.outLen = s.outLen
  phase : s.phase = .done
  phase' : s'.phase = .done
  output : s.status.outValid = true → ∀ a < s.outLen.toNat, s'.outByte a = s.outByte a
  host : s.host = []
  host' : s'.host = []

/-- Two machines that are in the same call or have ended it alike. -/
inductive State.Matched (s s' : State) : Prop
  | running (h : s.Twin s')
  | ended (h : s.EndedAlike s')

/-- An error ends both calls alike, whatever it leaves in the engine registers (rule R136). -/
theorem State.Twin.raise {s s' : State} (h : s.Twin s') (e : ErrCode) : (s.raise e).Matched (s'.raise e) := by
  obtain ⟨⟨x, rfl⟩, -, -, -, -, hhost⟩ := h
  exact .ended ⟨rfl, rfl, rfl, rfl, nofun, hhost, hhost⟩

/-- A call that completes with its output whole ends alike in both (rule R132). -/
theorem State.Twin.complete {s s' : State} (h : s.Twin s') (hfull : s.declared ≤ s.oc) :
    s.complete.Matched s'.complete := by
  obtain ⟨⟨x, rfl⟩, -, hout, -, hlen, hhost⟩ := h
  exact .ended ⟨rfl, rfl, rfl, rfl, fun _ a ha => hout a (Nat.lt_of_lt_of_le ha (hlen.trans hfull)), hhost, hhost⟩

/-! ### What the updates of the state keep -/

/-- An update of the shared registers that leaves the call running: it does not move the cursor past the common output,
keeps OUT_LEN covered by L, and makes no output valid. -/
structure Quiet (f : State → State) : Prop where
  amid : ∀ s x, f (s.amid x) = (f s).amid x := by intros; rfl
  inLen : ∀ s, (f s).inLen = s.inLen := by intros; rfl
  oc : ∀ s, (f s).oc ≤ s.oc := by intros; rfl
  length : ∀ s, s.outLen.toNat ≤ s.declared → (f s).outLen.toNat ≤ (f s).declared := by exact fun _ h => h
  outValid : ∀ s, (f s).status.outValid = s.status.outValid := by intros; rfl
  host : ∀ s, (f s).host = s.host := by intros; rfl

section Quiet
variable {f g : State → State}

theorem Quiet.surroundings (hf : Quiet f) (s : State) : (f s).surroundings = s.surroundings :=
  (congrArg State.surroundings (hf.amid s s.surroundings)).trans ((f s).surroundings_amid s.surroundings)

theorem Quiet.inByte (hf : Quiet f) (s : State) (a : Nat) : (f s).inByte a = s.inByte a :=
  congrArg (fun x : Surroundings => (Memory.read a x.inMem).getD (Config.unloadedIn x.resets a)) (hf.surroundings s)

theorem Quiet.outByte (hf : Quiet f) (s : State) (a : Nat) : (f s).outByte a = s.outByte a :=
  congrArg (fun x : Surroundings => (Memory.read a x.outMem).getD (Config.unwrittenOut x.resets a)) (hf.surroundings s)

/-- A choice between quiet updates is quiet when its condition is one on the shared registers. -/
theorem Quiet.ite {c : State → Prop} [DecidablePred c] (hc : ∀ s x, c (State.amid s x) = c s) (hf : Quiet f)
    (hg : Quiet g) : Quiet fun s => if c s then f s else g s where
  amid s x := by simp only [hc]; split; exacts [hf.amid s x, hg.amid s x]
  inLen s := by split; exacts [hf.inLen s, hg.inLen s]
  oc s := by split; exacts [hf.oc s, hg.oc s]
  length s := by split; exacts [hf.length s, hg.length s]
  outValid s := by split; exacts [hf.outValid s, hg.outValid s]
  host s := by split; exacts [hf.host s, hg.host s]

/-- A quiet update keeps two machines in the same call. -/
theorem Quiet.twin (hf : Quiet f) {s s' : State} (h : s.Twin s') : (f s).Twin (f s') where
  same := by
    obtain ⟨x, rfl⟩ := h.same
    exact ⟨x, hf.amid s x⟩
  input a ha := by
    rw [hf.inByte, hf.inByte]
    exact h.input a (hf.inLen s ▸ ha)
  output a ha := by
    rw [hf.outByte, hf.outByte]
    exact h.output a (Nat.lt_of_lt_of_le ha (hf.oc s))
  invalid := (hf.outValid s).trans h.invalid
  length := hf.length s h.length
  host := (hf.host s).trans h.host

end Quiet

/-- Writing a table register file is quiet, for a content that depends on the shared registers. -/
theorem Quiet.setTable (t : TableId) {x : State → Table} (hx : ∀ s y, x (State.amid s y) = x s) :
    Quiet fun s => s.setTable t (x s) := by
  cases t with
  | t1 => exact { amid := fun s y => by simp only [hx]; rfl }
  | t2 => exact { amid := fun s y => by simp only [hx]; rfl }

/-- The cursor back at 0 leaves no output to compare (rules R90, R91). -/
theorem Quiet.rewind : Quiet fun s => { s with oc := 0, fcnt := 0 } := { oc := fun _ => Nat.zero_le _ }

/-- OUT_LEN shows L, as far as its 32 bits go (rule R24). -/
theorem Quiet.setDeclared (n : Nat) : Quiet fun s => s.setDeclared n where
  length s _ := by
    rw [State.setDeclared_outLen, State.setDeclared_declared, BitVec.toNat_ofNat]
    exact Nat.mod_le _ _

theorem Quiet.setIp (a : Nat) : Quiet fun s => s.setIp a := {}

theorem Quiet.setFormat (f : Format) : Quiet fun s => s.setFormat f := {}

theorem Quiet.setPhase (p : Phase) : Quiet fun s => s.setPhase p := {}

theorem Quiet.setLens (t : TableId) (i : Nat) (new : List Nat) : Quiet fun s => s.setLens t i new :=
  .setTable t fun _ _ => by cases t <;> rfl

/-- The same byte written at the cursor extends the common output. -/
theorem State.Twin.emit {s s' : State} (h : s.Twin s') (b : Byte) : (s.emit b).Twin (s'.emit b) where
  same := by
    obtain ⟨x, rfl⟩ := h.same
    exact ⟨{ x with outMem := Memory.write s.oc b x.outMem }, rfl⟩
  input := h.input
  output a ha := by
    by_cases hc : a = s.oc
    · subst hc
      rw [State.outByte_emit_same, ← h.oc, State.outByte_emit_same]
    · rw [State.outByte_emit_other _ _ hc, State.outByte_emit_other _ _ (h.oc ▸ hc)]
      exact h.output a (Nat.lt_of_le_of_ne (Nat.le_of_lt_succ ha) hc)
  invalid := h.invalid
  length := h.length
  host := h.host

theorem State.Twin.emitAll {s s' : State} (h : s.Twin s') (bs : List Byte) :
    (State.emitAll bs s).Twin (State.emitAll bs s') := by
  induction bs generalizing s s' with
  | nil => exact h
  | cons b bs ih => exact ih (h.emit b)

/-- A copy reads below the cursor alone, so it writes the same bytes (rule R98). -/
theorem State.Twin.copyBytes {s s' : State} (h : s.Twin s') {d : Nat} (hd : 1 ≤ d) (hle : d ≤ s.oc) (n : Nat) :
    (State.copyBytes n d s).Twin (State.copyBytes n d s') := by
  induction n generalizing s s' with
  | zero => exact h
  | succ n ih =>
    have hread : s'.outByte (s'.oc - d) = s.outByte (s.oc - d) := h.oc ▸ h.output (s.oc - d) (by omega)
    simp only [State.copyBytes, hread]
    exact ih (h.emit _) (Nat.le_succ_of_le hle)

/-- The end of a token: the call completes if the output is whole, else it goes on (rules R99, R106, R114, R124). -/
theorem State.Twin.completeOr {s s' : State} (h : s.Twin s') {g : State → State} (hg : Quiet g) :
    State.Matched (if s.oc = s.declared then s.complete else g s)
      (if s'.oc = s'.declared then s'.complete else g s') := by
  simp only [h.oc, h.declared]
  split
  · exact h.complete (Nat.le_of_eq (Eq.symm ‹_›))
  · exact .running (hg.twin h)

/-! ### Operations that run alike -/

section Alike
variable {α β : Type} {Q : State → State → Prop}

/-- Two runs of pseudocode that answer the same value or stop for the same reason, in related states. -/
inductive ResultAlike (Q : State → State → Prop) :
    EStateM.Result Stop State α → EStateM.Result Stop State α → Prop
  | ok (a : α) {t t' : State} (h : Q t t') : ResultAlike Q (.ok a t) (.ok a t')
  | error (e : Stop) {t t' : State} (h : t.Twin t') : ResultAlike Q (.error e t) (.error e t')

/-- Pseudocode that runs alike on two machines in the same call, and relates the states it answers in by `Q`. -/
def Op.Alike (Q : State → State → Prop) (op : Op α) : Prop :=
  ∀ s s' : State, s.Twin s' → ResultAlike Q (op s) (op s')

/-- Two parts run alike together if the second does from the states the first answers in. -/
theorem ResultAlike.bind {R : State → State → Prop} {x : Op α} {f : α → Op β} {s s' : State}
    (hx : ResultAlike R (x s) (x s'))
    (hf : ∀ a t t', x s = .ok a t → R t t' → ResultAlike Q (f a t) (f a t')) :
    ResultAlike Q ((x >>= f) s) ((x >>= f) s') := by
  rw [Op.bind_apply, Op.bind_apply]
  generalize hr : x s = r at hx
  generalize x s' = r' at hx
  cases hx with
  | ok a h => exact hf a _ _ hr h
  | error e h => exact .error e h

namespace Op.Alike

theorem bind {x : Op α} {f : α → Op β} (hx : Op.Alike State.Twin x) (hf : ∀ a, Op.Alike Q (f a)) :
    Op.Alike Q (x >>= f) :=
  fun s s' h => ResultAlike.bind (hx s s' h) fun a t t' _ ht => hf a t t' ht

/-- Pseudocode that reads the state runs alike if it uses the shared registers only. It runs in the state it read. -/
theorem get_bind_same {f : State → Op α} (hs : ∀ s x, f (State.amid s x) = f s)
    (hf : ∀ s s' : State, s.Twin s' → ResultAlike Q (f s s) (f s s')) : Op.Alike Q (get >>= f) := by
  intro s s' h
  obtain ⟨x, hx⟩ := h.same
  have hfs : f s' = f s := hx ▸ hs s x
  simp only [Op.bind_apply, Op.get_apply, hfs]
  exact hf s s' h

theorem get_bind {f : State → Op α} (hs : ∀ s x, f (State.amid s x) = f s) (hf : ∀ s, Op.Alike Q (f s)) :
    Op.Alike Q (get >>= f) :=
  get_bind_same hs fun s s' h => hf s s s' h

theorem ite {c : Prop} [Decidable c] {x y : Op α} (hx : Op.Alike Q x) (hy : Op.Alike Q y) :
    Op.Alike Q (if c then x else y) := by
  split
  · exact hx
  · exact hy

theorem pure (a : α) : Op.Alike State.Twin (Pure.pure a : Op α) := fun _ _ h => .ok a h

theorem raised (e : ErrCode) : Op.Alike Q (raised e : Op α) := fun _ _ h => .error _ h

theorem faulted (f : Fault) : Op.Alike Q (faulted f : Op α) := fun _ _ h => .error _ h

theorem update {f : State → State} (hf : ∀ s s' : State, s.Twin s' → Q (f s) (f s')) : Op.Alike Q (update f) :=
  fun s s' h => .ok () (hf s s' h)

/-- Registers written aside from the output and STATUS. -/
theorem quiet {f : State → State} (hf : Quiet f) : Op.Alike State.Twin (Machine.update f) :=
  update fun _ _ h => hf.twin h

/-- An operation that leaves the call running leaves the machines matched. -/
theorem matched {op : Op α} (h : Op.Alike State.Twin op) : Op.Alike State.Matched op := by
  intro s s' hs
  have hop := h s s' hs
  generalize op s = r at hop ⊢
  generalize op s' = r' at hop ⊢
  cases hop with
  | ok a ht => exact .ok a (.running ht)
  | error e ht => exact .error e ht

end Op.Alike

/-! ### The memories -/

/-- Bytes below IN_LEN read the same (rule R33). -/
theorem State.Twin.inBytes {s s' : State} (h : s.Twin s') {a n : Nat} (hle : a + n ≤ s.inLen.toNat) :
    s'.inBytes a n = s.inBytes a n := by
  induction n generalizing a with
  | zero => rfl
  | succ n ih => rw [State.inBytes, State.inBytes, h.input a (by omega), ih (by omega)]

theorem memRead_alike (a n : Nat) : Op.Alike State.Twin (memRead a n) := by
  intro s s' h
  simp only [memRead, h.inLen, h.cfg]
  split
  · exact .error _ h
  · split
    · exact .error _ h
    · rw [h.inBytes (by omega)]
      exact .ok _ h

theorem le16_alike (a : Nat) : Op.Alike State.Twin (le16 a) := (memRead_alike a 2).bind fun _ => .pure _

theorem le32_alike (a : Nat) : Op.Alike State.Twin (le32 a) := (memRead_alike a 4).bind fun _ => .pure _

theorem be16_alike (a : Nat) : Op.Alike State.Twin (be16 a) := (memRead_alike a 2).bind fun _ => .pure _

theorem be32_alike (a : Nat) : Op.Alike State.Twin (be32 a) := (memRead_alike a 4).bind fun _ => .pure _

theorem takeBytes_alike (n : Nat) : Op.Alike State.Twin (takeBytes n) :=
  .get_bind (fun _ _ => rfl) fun s => (memRead_alike s.ip n).bind fun _ => (Op.Alike.quiet {}).bind fun _ => .pure _

theorem emitByte_alike (b : Byte) : Op.Alike State.Twin (emitByte b) := by
  intro s s' h
  simp only [emitByte, h.oc, h.declared]
  split
  · exact .ok () (h.emit b)
  · exact .error _ h

theorem copyOp_alike (length distance : Nat) : Op.Alike State.Twin (copyOp length distance) := by
  intro s s' h
  simp only [copyOp, h.oc, h.declared]
  split
  · exact .error _ h
  · split
    · exact .error _ h
    · exact .ok () (h.copyBytes (by omega) (by omega) length)

/-! ### DISPATCH -/

theorem capacityCheckOp_alike (len : Nat) : Op.Alike State.Twin (capacityCheckOp len) := by
  intro s s' h
  simp only [capacityCheckOp, h.cfg]
  split
  · exact .error _ h
  · exact .ok () h

theorem headerAddress_alike : Op.Alike State.Twin headerAddress := by
  have htag : Op.Alike State.Twin tagPresentOp :=
    .get_bind (fun _ _ => rfl) fun _ => .ite ((memRead_alike 0 5).bind fun _ => .pure _) (.pure _)
  exact htag.bind fun _ => .pure _

/-- Entry of a format whose length is L: an empty output is whole at once (rules R90, R91, R115, R131). -/
theorem State.Twin.enter {s s' : State} (h : s.Twin s') (f : Format) {len : Nat} (hlen : s.declared = len) :
    (s.enter f len).Matched (s'.enter f len) := by
  cases f with
  | lz10 | lz11 | n64lz =>
    simp only [State.enter]
    split
    · exact (Quiet.rewind.twin h).complete (Nat.le_of_eq (hlen.trans ‹_›))
    · exact .running ((Quiet.setPhase _).twin (Quiet.rewind.twin h))
  | huf8 | lzh8 => exact .running ((Quiet.setPhase _).twin h)
  | romchu =>
    simp only [State.enter]
    split
    · exact h.complete (by omega)
    · exact .running ((Quiet.setPhase _).twin h)

theorem dispatchCommit_alike (f : Format) (len next : Nat) : Op.Alike State.Matched (dispatchCommit f len next) := by
  intro s s' h
  have ht := (Quiet.setFormat f).twin ((Quiet.setIp next).twin ((Quiet.setDeclared len).twin h))
  refine ResultAlike.bind (R := fun t t' => t.Twin t' ∧ t.declared = len) (.ok () ⟨ht, rfl⟩) fun _ t t' _ hc => ?_
  refine ResultAlike.bind (capacityCheckOp_alike len t t' hc.1) fun _ u u' hu huu => ?_
  have hut : u = t := by
    rcases capacityCheckOp_cases t len with hok | herr
    · rw [hok] at hu; cases hu; rfl
    · rw [herr] at hu; cases hu
  exact .ok () (huu.enter f (hut ▸ hc.2))

theorem dispatchLeOp_alike (f : Format) (len : Nat) : Op.Alike State.Matched (dispatchLeOp f len) :=
  headerAddress_alike.bind fun h => (memRead_alike h 4).bind fun _ =>
    .get_bind (fun _ _ => rfl) fun _ => .ite (.raised _) (dispatchCommit_alike f len _)

theorem dispatchBeOp_alike (f : Format) (len : Nat) : Op.Alike State.Matched (dispatchBeOp f len) :=
  (memRead_alike 0 4).bind fun _ =>
    .get_bind (fun _ _ => rfl) fun _ => .ite (.raised _) (dispatchCommit_alike f len _)

theorem dispatchOp_alike : Op.Alike State.Matched dispatchOp := by
  have be (w : Nat) : Op.Alike State.Matched
      (if w % 4 = 1 then dispatchBeOp .n64lz (w / 4)
        else if w % 4 = 2 then dispatchBeOp .romchu (w / 4) else raised .unsupportedFormat) :=
    .ite (dispatchBeOp_alike _ _) (.ite (dispatchBeOp_alike _ _) (.raised _))
  have le (w : Nat) : Op.Alike State.Matched
      (if w % 256 = 0x10 then dispatchLeOp .lz10 (w / 256)
        else if w % 256 = 0x11 then dispatchLeOp .lz11 (w / 256)
        else if w % 256 = 0x28 then dispatchLeOp .huf8 (w / 256)
        else if w % 256 = 0x40 then dispatchLeOp .lzh8 (w / 256) else raised .unsupportedFormat) :=
    .ite (dispatchLeOp_alike _ _) (.ite (dispatchLeOp_alike _ _) (.ite (dispatchLeOp_alike _ _)
      (.ite (dispatchLeOp_alike _ _) (.raised _))))
  exact .get_bind (fun _ _ => rfl) fun _ => .ite (.raised _) (.ite ((be32_alike 0).bind be)
    (headerAddress_alike.bind fun h => (le32_alike h).bind le))

/-! ### The sliding window -/

theorem lzNext_alike : Op.Alike State.Matched (update State.lzNext) :=
  .update fun _ _ h =>
    (Quiet.twin (f := fun s => s.setFcnt (s.fcnt - 1)) {} h).completeOr
      (.ite (c := fun s => s.fcnt = 0) (fun _ _ => rfl) (.setPhase _) (.setPhase _))

theorem lzRefOp_alike (n length distance : Nat) : Op.Alike State.Matched (lzRefOp n length distance) :=
  (takeBytes_alike n).bind fun _ => (copyOp_alike length distance).bind fun _ => lzNext_alike

/-! ### Huf8 -/

theorem h8SetupOp_alike : Op.Alike State.Matched h8SetupOp := by
  refine (memRead_alike 4 1).bind fun _ => (Op.Alike.quiet {}).bind fun _ =>
    .get_bind_same (fun _ _ => rfl) fun s s' h => ?_
  split
  · exact .ok () (h.complete (by omega))
  · exact Op.Alike.ite (.raised _) (.matched (.quiet {})) s s' h

theorem poolBit_alike : Op.Alike State.Twin poolBit := by
  have deliver : ∀ s : State, Op.Alike State.Twin (do
      update fun s => s.setH8 { s.h8 with pbits := s.h8.pbits - 1 }
      return s.h8.pw.getLsbD (s.h8.pbits - 1)) := fun s => (Op.Alike.quiet {}).bind fun _ => .pure _
  exact .get_bind (fun _ _ => rfl) fun s => .ite
    ((memRead_alike s.h8.pidx 4).bind fun _ => (Op.Alike.quiet {}).bind fun _ => .get_bind (fun _ _ => rfl) deliver)
    (.get_bind (fun _ _ => rfl) deliver)

theorem checkChildOp_alike (child : Nat) : Op.Alike State.Twin (checkChildOp child) := by
  intro s s' h
  simp only [checkChildOp, h.h8]
  split
  · exact .error _ h
  · split
    · exact .error _ h
    · exact .ok () h

theorem emitLeafOp_alike (child : Nat) : Op.Alike State.Matched (emitLeafOp child) :=
  (memRead_alike (5 + child) 1).bind fun _ => (emitByte_alike _).bind fun _ => .update fun _ _ h =>
    (Quiet.twin (f := fun s => s.setH8 { s.h8 with cur := 0 }) {} h).completeOr (.setPhase _)

theorem h8EdgeOp_alike (b : Nat) (leaf : Byte → Bool) : Op.Alike State.Matched (h8EdgeOp b leaf) :=
  poolBit_alike.bind fun _ => .get_bind (fun _ _ => rfl) fun s => (memRead_alike _ 1).bind fun _ =>
    (checkChildOp_alike _).bind fun _ => .ite (emitLeafOp_alike _) (.matched (.quiet {}))

/-! ### The bit reader -/

theorem reader_alike : Op.Alike State.Twin reader := by
  intro s s' h
  simp only [reader, h.br]
  split
  · exact .ok _ h
  · exact .error _ h

theorem brInitOp_alike (lo hi : Nat) (limit : Option Nat) : Op.Alike State.Twin (brInitOp lo hi limit) := .quiet {}

theorem nextBit_alike : Op.Alike State.Twin nextBit := by
  have refilled (r : BitReader) : Op.Alike State.Twin (refill r) :=
    .ite (.raised _) ((memRead_alike r.idx 1).bind fun _ => .pure _)
  have deliver (r : BitReader) : Op.Alike State.Twin (do
      update fun s => s.setReader { r with nbits := r.nbits - 1 }
      return r.cur.getLsbD (r.nbits - 1)) := (Op.Alike.quiet {}).bind fun _ => .pure _
  exact reader_alike.bind fun r => .ite (.raised _) (.ite ((refilled r).bind deliver) ((Op.Alike.pure r).bind deliver))

theorem readBits_alike (n : Nat) : Op.Alike State.Twin (readBits n) := by
  have loop (v : Nat) : Op.Alike State.Twin (readBitsFrom v n) := by
    induction n generalizing v with
    | zero => exact .pure v
    | succ n ih => exact nextBit_alike.bind fun b => ih _
  exact loop 0

theorem checkZeroBits_alike (lo q n : Nat) : Op.Alike State.Twin (checkZeroBits lo q n) := by
  induction n generalizing q with
  | zero => exact .pure ()
  | succ n ih => exact (memRead_alike _ 1).bind fun _ => .ite (.raised _) (ih _)

theorem brCheckpadOp_alike (endBit : Nat) : Op.Alike State.Twin (brCheckpadOp endBit) :=
  reader_alike.bind fun r => (checkZeroBits_alike r.lo r.pos _).bind fun _ => .quiet {}

/-! ### Huffman tables -/

theorem runEqualOp_alike (t : TableId) (i : Nat) : Op.Alike State.Twin (runEqualOp t i) :=
  .get_bind (fun _ _ => by cases t <;> rfl) fun _ => (readBits_alike _).bind fun _ => .ite (.raised _)
    ((readBits_alike _).bind fun _ => (Op.Alike.quiet (.setLens t i _)).bind fun _ => .pure _)

theorem readLens_alike (w n : Nat) : Op.Alike State.Twin (readLens w n) := by
  induction n with
  | zero => exact .pure []
  | succ n ih => exact (readBits_alike w).bind fun _ => ih.bind fun _ => .pure _

theorem runSetOp_alike (t : TableId) (i : Nat) : Op.Alike State.Twin (runSetOp t i) :=
  .get_bind (fun _ _ => by cases t <;> rfl) fun _ => (readBits_alike _).bind fun _ => .ite (.raised _)
    ((readLens_alike _ _).bind fun _ => (Op.Alike.quiet (.setLens t i _)).bind fun _ => .pure _)

theorem runsOp_alike (t : TableId) (fuel i : Nat) : Op.Alike State.Twin (runsOp t fuel i) := by
  induction fuel generalizing i with
  | zero => exact .pure ()
  | succ fuel ih =>
    refine .get_bind (fun _ _ => by cases t <;> rfl) fun _ => .ite ((readBits_alike 1).bind fun tag => ?_) (.pure ())
    exact .ite ((runEqualOp_alike t i).bind ih) ((runSetOp_alike t i).bind ih)

theorem htBuildOp_alike (t : TableId) : Op.Alike State.Twin (htBuildOp t) := by
  intro s s' h
  simp only [htBuildOp, h.cfg, h.table]
  split
  · exact .ok () ((Quiet.setTable t (x := fun _ => { s.table t with node := _ }) fun _ _ => rfl).twin h)
  · exact .error _ h

theorem htLoadOp_alike (t : TableId) (size : Nat) : Op.Alike State.Twin (htLoadOp t size) :=
  (Op.Alike.quiet (.setTable t fun _ _ => rfl)).bind fun _ => (runsOp_alike t size 0).bind fun _ => htBuildOp_alike t

theorem walk_alike (nodes : List Node) (fuel k : Nat) : Op.Alike State.Twin (walk nodes fuel k) := by
  induction fuel generalizing k with
  | zero => exact .raised _
  | succ fuel ih =>
    refine nextBit_alike.bind fun b => ?_
    split
    · exact .raised _
    · split
      · exact .pure _
      · exact ih _

theorem decodeSymbol_alike (t : TableId) : Op.Alike State.Twin (decodeSymbol t) :=
  .get_bind (fun _ _ => by cases t <;> rfl) fun _ => reader_alike.bind fun _ => walk_alike _ _ _

/-! ### LZH8 -/

theorem lzh8LengthOp_alike : Op.Alike State.Twin lzh8LengthOp := by
  refine .get_bind (fun _ _ => rfl) fun s => .ite ?_ (.pure 4)
  split
  · exact .raised _
  · exact (le32_alike 4).bind fun len => (Op.Alike.quiet (.setDeclared len)).bind fun _ =>
      (capacityCheckOp_alike len).bind fun _ => .pure 8

theorem lzh8TableOp_alike (t : TableId) (size a : Nat) : Op.Alike State.Twin (lzh8TableOp t size a) :=
  (le16_alike a).bind fun _ => .get_bind (fun _ _ => rfl) fun _ => .ite (.raised _)
    ((brInitOp_alike _ _ _).bind fun _ => (htLoadOp_alike t size).bind fun _ => .pure _)

theorem lzh8Next_alike : Op.Alike State.Matched (update State.lzh8Next) :=
  .update (f := State.lzh8Next) fun _ _ h => h.completeOr (Quiet.setPhase .lzh8Body)

theorem lzh8DispOp_alike (displen : Nat) : Op.Alike State.Twin (lzh8DispOp displen) :=
  .ite (.pure 0) ((readBits_alike _).bind fun _ => .pure _)

theorem lzh8RefOp_alike (length : Nat) : Op.Alike State.Matched (lzh8RefOp length) :=
  (decodeSymbol_alike .t1).bind fun _ => (decodeSymbol_alike .t2).bind fun displen =>
    (lzh8DispOp_alike displen).bind fun _ => (copyOp_alike length _).bind fun _ => lzh8Next_alike

theorem lzh8SetupOp_alike : Op.Alike State.Matched lzh8SetupOp := by
  have body (s : State) (a : Nat) : Op.Alike State.Matched (do
      let a ← lzh8TableOp .t1 s.cfg.lzh8S1 a
      let a ← lzh8TableOp .t2 s.cfg.lzh8S2 a
      brInitOp a s.inLen.toNat none
      update fun s => s.setPhase .lzh8Body) :=
    (lzh8TableOp_alike .t1 _ a).bind fun a => (lzh8TableOp_alike .t2 _ a).bind fun a =>
      (brInitOp_alike a _ _).bind fun _ => .matched (.quiet (.setPhase _))
  refine lzh8LengthOp_alike.bind fun a => .get_bind_same (fun _ _ => rfl) fun s s' h => ?_
  split
  · exact .ok () (h.complete (by omega))
  · exact body s a s s' h

/-! ### Romchu -/

theorem rcHeaderOp_alike : Op.Alike State.Twin rcHeaderOp :=
  .get_bind (fun _ _ => rfl) fun _ => .ite (.raised _) (be32_alike _)

theorem rcOpenOp_alike (n : Nat) : Op.Alike State.Twin (rcOpenOp n) := rcHeaderOp_alike.bind fun _ => .quiet {}

theorem rcRawOp_alike : Op.Alike State.Matched rcRawOp := by
  refine .get_bind (fun _ _ => rfl) fun s => .ite (.raised _) (.ite (.raised _)
    ((memRead_alike _ _).bind fun bs => .update fun t t' h => ?_))
  have hemit := h.emitAll bs
  exact (Quiet.twin (f := fun s =>
    (s.setIp (s.rc.payload + s.rc.n)).setRc { s.rc with next := s.rc.payload + s.rc.n }) {} hemit).completeOr
      (.setPhase _)

theorem rcNextOp_alike : Op.Alike State.Matched rcNextOp := by
  refine reader_alike.bind fun r => .update fun s s' h => ?_
  split
  · exact .running ((Quiet.setPhase _).twin h)
  · exact (Quiet.twin (f := fun s => s.setIp s.rc.next) {} h).completeOr (.setPhase _)

theorem rcTableOp_alike (t : TableId) (size p : Nat) : Op.Alike State.Twin (rcTableOp t size p) :=
  .get_bind (fun _ _ => rfl) fun _ => .ite (.raised _) <| (brInitOp_alike _ _ _).bind fun _ =>
    (readBits_alike 16).bind fun _ => .ite (.raised _) <| (brInitOp_alike _ _ _).bind fun _ =>
      (htLoadOp_alike t size).bind fun _ => (brCheckpadOp_alike _).bind fun _ => .pure _

theorem rcCompOp_alike : Op.Alike State.Matched rcCompOp :=
  (Op.Alike.quiet {}).bind fun _ => .get_bind (fun _ _ => rfl) fun _ => .ite (.raised _) <|
    (rcTableOp_alike .t1 _ 0).bind fun _ => (rcTableOp_alike .t2 _ _).bind fun _ =>
      (brInitOp_alike _ _ _).bind fun _ => rcNextOp_alike

theorem rcBlockOp_alike : Op.Alike State.Matched rcBlockOp :=
  rcHeaderOp_alike.bind fun _ => (rcOpenOp_alike _).bind fun _ => .ite rcRawOp_alike rcCompOp_alike

theorem rcLenClassOp_alike (c : Nat) : Op.Alike State.Twin (rcLenClassOp c) := by
  unfold rcLenClassOp
  split
  · exact (readBits_alike _).bind fun _ => .pure _
  · exact .faulted _

theorem rcDistClassOp_alike (dc : Nat) : Op.Alike State.Twin (rcDistClassOp dc) := by
  unfold rcDistClassOp
  split
  · exact (readBits_alike _).bind fun _ => .pure _
  · exact .faulted _

theorem rcRefOp_alike (c : Nat) : Op.Alike State.Matched (rcRefOp c) :=
  (decodeSymbol_alike .t1).bind fun _ => (decodeSymbol_alike .t2).bind fun dc =>
    (rcLenClassOp_alike c).bind fun length => (rcDistClassOp_alike dc).bind fun distance =>
      (copyOp_alike length distance).bind fun _ => rcNextOp_alike

/-! ### Fetch -/

/-- The operations the fetch selects: those of a phase, and those its decode contexts name (rules R21, R47). -/
def fetched : Instr → Bool
  | .dispatch | .lzFlags _ | .lzLit _ | .lz10Ref _ _ | .lz11RefShort _ _ | .lz11RefMed _ _ | .lz11RefLong _ _
  | .h8Setup | .h8Bit0 | .h8Bit1 | .lzh8Setup | .lzh8Lit _ | .lzh8Ref _ | .rcBlock | .rcLit _ | .rcRef _
  | .reservedRcSym1 _ => true
  | _ => false

/-- The decode contexts of the operations the engine selects at its cursor. -/
def fetchContexts : List Context := [.lzFlag8, .lzFlagbit, .lz10Tok16, .lz11Info16, .h8Bit, .lzh8Sym1, .rcSym1]

theorem decodeLz11_fetched {info : Nat} {rest : List Byte} {i : Instr} (h : decodeLz11 info rest = .ok i) :
    fetched i = true := by
  unfold decodeLz11 at h
  split at h
  · cases rest with
    | nil => cases h
    | cons b rest => cases h; rfl
  · split at h
    · match rest with
      | [] | [_] => cases h
      | _ :: _ :: _ => cases h; rfl
    · cases h; rfl

theorem decode_fetched {c : Context} (hc : c ∈ fetchContexts) {v : Nat} {rest : List Byte} {i : Instr}
    (h : decode c v rest = .ok i) : fetched i = true := by
  unfold decode at h
  split at h
  · cases h
  · cases c with
    | lzFlag8 | lz10Tok16 => cases h; rfl
    | lzFlagbit =>
      simp only at h
      split at h
      · cases rest with
        | nil => cases h
        | cons b rest => cases h; rfl
      · cases h
    | lz11Info16 => exact decodeLz11_fetched h
    | h8Bit | lzh8Sym1 => simp only at h; split at h <;> (cases h; rfl)
    | rcSym1 =>
      simp only at h
      split at h
      · cases h; rfl
      · split at h <;> (cases h; rfl)
    | _ => simp [fetchContexts] at hc

/-- Every value pseudocode answers satisfies a property. -/
def Op.Answers (P : α → Prop) (op : Op α) : Prop := ∀ s a t, op s = .ok a t → P a

namespace Op.Answers
variable {P : α → Prop}

theorem pure {a : α} (h : P a) : Op.Answers P (Pure.pure a : Op α) := by
  intro s b t hb
  cases hb
  exact h

theorem bind {x : Op β} {f : β → Op α} (hf : ∀ b, Op.Answers P (f b)) : Op.Answers P (x >>= f) := by
  intro s a u h
  obtain ⟨b, t, -, hb⟩ := Op.bind_ok.mp h
  exact hf b t a u hb

theorem ite {c : Prop} [Decidable c] {x y : Op α} (hx : Op.Answers P x) (hy : Op.Answers P y) :
    Op.Answers P (if c then x else y) := by
  split
  · exact hx
  · exact hy

end Op.Answers

/-- A decoded value that selects, if any, an operation of the engine. -/
def SelectsFetched (d : Except DecodeError Instr) : Prop := ∀ i, d = .ok i → fetched i = true

theorem lookFlags_alike : Op.Alike State.Twin lookFlags :=
  .get_bind (fun _ _ => rfl) fun _ => (memRead_alike _ _).bind fun _ => .pure _

theorem lookFlags_answers : Op.Answers SelectsFetched lookFlags :=
  .bind fun _ => .bind fun _ => .pure fun _ => decode_fetched (by decide)

theorem lookToken_alike : Op.Alike State.Twin lookToken := by
  have literal : Op.Alike State.Twin lookLiteral :=
    .get_bind (fun _ _ => rfl) fun _ => (memRead_alike _ _).bind fun _ => .pure _
  have lz10 : Op.Alike State.Twin lookLz10 :=
    .get_bind (fun _ _ => rfl) fun _ => (be16_alike _).bind fun _ => .pure _
  have lz11 : Op.Alike State.Twin lookLz11 :=
    .get_bind (fun _ _ => rfl) fun _ => (be16_alike _).bind fun _ => (memRead_alike _ _).bind fun _ => .pure _
  exact .get_bind (fun _ _ => rfl) fun _ => .ite literal (.ite lz10 lz11)

theorem lookToken_answers : Op.Answers SelectsFetched lookToken :=
  .bind fun _ => .ite (.bind fun _ => .bind fun _ => .pure fun _ => decode_fetched (by decide)) <|
    .ite (.bind fun _ => .bind fun _ => .pure fun _ => decode_fetched (by decide))
      (.bind fun _ => .bind fun _ => .bind fun _ => .pure fun _ => decode_fetched (by decide))

theorem lookPoolBit_alike : Op.Alike State.Twin lookPoolBit := poolBit_alike.bind fun _ => .pure _

theorem lookPoolBit_answers : Op.Answers SelectsFetched lookPoolBit :=
  .bind fun _ => .pure fun _ => decode_fetched (by decide)

theorem lookSymbol_alike (c : Context) : Op.Alike State.Twin (lookSymbol c) :=
  (decodeSymbol_alike .t1).bind fun _ => .pure _

theorem lookSymbol_answers {c : Context} (hc : c ∈ fetchContexts) : Op.Answers SelectsFetched (lookSymbol c) :=
  .bind fun _ => .pure fun _ => decode_fetched hc

theorem fetchWith_twin {op : Op (Except DecodeError Instr)} (hop : Op.Alike State.Twin op) {s s' : State}
    (h : s.Twin s') : fetchWith op s' = fetchWith op s := by
  have hr := hop s s' h
  unfold fetchWith
  generalize op s = r at hr ⊢
  generalize op s' = r' at hr ⊢
  cases hr with
  | ok d ht => rfl
  | error e ht => cases e <;> rfl

/-- Both machines select the same operation, or stop for the same reason. -/
theorem fetch_twin {s s' : State} (h : s.Twin s') : fetch s' = fetch s := by
  unfold fetch
  rw [h.phase]
  generalize s.phase = p
  cases p with
  | lzFlag => exact fetchWith_twin lookFlags_alike h
  | lzToken => exact fetchWith_twin lookToken_alike h
  | h8Walk => exact fetchWith_twin lookPoolBit_alike h
  | lzh8Body => exact fetchWith_twin (lookSymbol_alike _) h
  | rcBody => exact fetchWith_twin (lookSymbol_alike _) h
  | idle | dispatch | h8Setup | lzh8Setup | rcBlock | done => rfl

theorem fetchWith_fetched {op : Op (Except DecodeError Instr)} (hop : Op.Answers SelectsFetched op) {s : State}
    {i : Instr} (h : fetchWith op s = .run i) : fetched i = true := by
  unfold fetchWith at h
  split at h
  · rename_i d t hd
    unfold Fetch.ofDecode at h
    split at h
    · cases h
      exact hop s _ t hd i rfl
    all_goals cases h
  all_goals cases h

theorem fetch_fetched {s : State} {i : Instr} (h : fetch s = .run i) : fetched i = true := by
  unfold fetch at h
  generalize s.phase = p at h
  cases p with
  | lzFlag => exact fetchWith_fetched lookFlags_answers h
  | lzToken => exact fetchWith_fetched lookToken_answers h
  | h8Walk => exact fetchWith_fetched lookPoolBit_answers h
  | lzh8Body => exact fetchWith_fetched (lookSymbol_answers (by decide)) h
  | rcBody => exact fetchWith_fetched (lookSymbol_answers (by decide)) h
  | dispatch | h8Setup | lzh8Setup | rcBlock => cases h; rfl
  | idle | done => cases h

end Alike

/-! ### Steps and runs -/

/-- Two outcomes alike: matched next states, or the same fault. -/
inductive OutcomeAlike : Host.Outcome State Fault Refusal → Host.Outcome State Fault Refusal → Prop
  | next {t t' : State} (h : t.Matched t') : OutcomeAlike (.next t) (.next t')
  | fault (f : Fault) : OutcomeAlike (.fault f) (.fault f)

theorem OutcomeAlike.next_of_next {o o' : Host.Outcome State Fault Refusal} (h : OutcomeAlike o o') {t : State}
    (ho : o = .next t) : ∃ t', o' = .next t' ∧ t.Matched t' := by
  cases h with
  | next ht => cases ho; exact ⟨_, rfl, ht⟩
  | fault f => cases ho

theorem Op.Alike.runOp {op : Op Unit} (hop : Op.Alike State.Matched op) {s s' : State} (h : s.Twin s') :
    OutcomeAlike (Machine.runOp op s) (Machine.runOp op s') := by
  have hr := hop s s' h
  unfold Machine.runOp
  generalize op s = r at hr ⊢
  generalize op s' = r' at hr ⊢
  cases hr with
  | ok a ht => exact .next ht
  | error e ht =>
    cases e with
    | error e => exact .next (ht.raise e)
    | fault f => exact .fault f

/-- Every operation the engine selects runs alike on two machines in the same call. -/
theorem exec_alike {i : Instr} (hi : fetched i = true) {s s' : State} (h : s.Twin s') :
    OutcomeAlike (exec i s) (exec i s') := by
  cases i with
  | dispatch => exact dispatchOp_alike.runOp h
  | lzFlags flag => exact ((takeBytes_alike 1).bind fun _ => .matched (.quiet {})).runOp h
  | lzLit b => exact ((takeBytes_alike 1).bind fun _ => (emitByte_alike b).bind fun _ => lzNext_alike).runOp h
  | lz10Ref lm3 dm1 => exact (lzRefOp_alike _ _ _).runOp h
  | lz11RefShort len1 dm1 => exact (lzRefOp_alike _ _ _).runOp h
  | lz11RefMed len273 dm1 => exact (lzRefOp_alike _ _ _).runOp h
  | lz11RefLong len17 dm1 => exact (lzRefOp_alike _ _ _).runOp h
  | h8Setup => exact h8SetupOp_alike.runOp h
  | h8Bit0 => exact (h8EdgeOp_alike _ _).runOp h
  | h8Bit1 => exact (h8EdgeOp_alike _ _).runOp h
  | lzh8Setup => exact lzh8SetupOp_alike.runOp h
  | lzh8Lit b =>
    exact ((decodeSymbol_alike .t1).bind fun _ => (emitByte_alike b).bind fun _ => lzh8Next_alike).runOp h
  | lzh8Ref len3 => exact (lzh8RefOp_alike _).runOp h
  | rcBlock => exact rcBlockOp_alike.runOp h
  | rcLit b =>
    exact ((decodeSymbol_alike .t1).bind fun _ => .get_bind (fun _ _ => rfl) fun _ =>
      .ite (.raised _) ((emitByte_alike b).bind fun _ => rcNextOp_alike)).runOp h
  | rcRef cls => exact (rcRefOp_alike _).runOp h
  | reservedRcSym1 sym => exact (Op.Alike.faulted .reservedRomchuSymbol1).runOp h
  | _ => cases hi

theorem engineTurn_alike {s s' : State} (h : s.Twin s') : OutcomeAlike (engineTurn s) (engineTurn s') := by
  unfold engineTurn
  rw [fetch_twin h]
  cases hf : fetch s with
  | wait => exact .next (.running h)
  | run i => exact exec_alike (fetch_fetched hf) h
  | error e => exact .next (h.raise e)
  | fault f => exact .fault f

/-- With no host turn queued the step is the engine's. -/
theorem step_of_host_nil {s : State} (h : s.host = []) : step s = engineTurn s := by
  unfold step turn
  rw [h]

/-- An ended call waits for the next START (rules R132, R136). -/
theorem engineTurn_of_done {s : State} (h : s.phase = .done) : engineTurn s = .next s := by
  simp [engineTurn, fetch, h]

/-- One step keeps two machines matched. -/
theorem State.Matched.step_alike {s s' : State} (h : s.Matched s') : OutcomeAlike (step s) (step s') := by
  cases h with
  | running h =>
    rw [step_of_host_nil h.host, step_of_host_nil h.host']
    exact engineTurn_alike h
  | ended h =>
    rw [step_of_host_nil h.host, step_of_host_nil h.host', engineTurn_of_done h.phase, engineTurn_of_done h.phase']
    exact .next (.ended h)

/-- A run that goes on takes one step and then the rest. -/
theorem run_succ_next {M : Host.Core} {k : Nat} {s u : M.State} :
    M.run (k + 1) s = .next u ↔ ∃ t, M.step s = .next t ∧ M.run k t = .next u := by
  cases hstep : M.step s <;> simp [Host.Core.run, hstep]

/-- Any number of steps keeps two machines matched. -/
theorem State.Matched.run {k : Nat} {s s' u : State} (h : s.Matched s') (hrun : Sys2Proof.core.run k s = .next u) :
    ∃ u', Sys2Proof.core.run k s' = .next u' ∧ u.Matched u' := by
  induction k generalizing s s' with
  | zero =>
    cases hrun
    exact ⟨s', rfl, h⟩
  | succ k ih =>
    obtain ⟨t, hstep, hrest⟩ := run_succ_next.mp hrun
    obtain ⟨t', hstep', ht⟩ := h.step_alike.next_of_next hstep
    obtain ⟨u', hrest', hu⟩ := ih ht hrest
    exact ⟨u', run_succ_next.mpr ⟨t', hstep', hrest'⟩, hu⟩

/-- START on an idle machine starts the call (rule R125). -/
theorem exec_cmdStart_of_idle {s t : State} (hidle : s.status.busy = false) (h : exec .cmdStart s = .next t) :
    t = s.start := by
  have hexec : exec .cmdStart s = execCmdStart s := rfl
  rw [hexec, execCmdStart, hidle] at h
  cases h
  rfl

/-- START puts two machines with the same input into the same call (rules R42, R125). -/
theorem State.start_twin {s s' : State} (hhost : s.host = []) (hhost' : s'.host = []) (hhint : s'.hint = s.hint)
    (hlen : s'.inLen = s.inLen) (hcfg : s'.cfg = s.cfg) (hin : ∀ a < s.inLen.toNat, s'.inByte a = s.inByte a) :
    s.start.Twin s'.start where
  same := ⟨s'.surroundings, by
    simp [State.start, State.setEngine, State.amid, State.surroundings, hhost, hhost', hhint, hlen, hcfg]⟩
  input := hin
  output _ ha := absurd ha (Nat.not_lt_zero _)
  invalid := rfl
  length := Nat.le_refl 0
  host := hhost

/-- What R42 promises of two matched machines. -/
theorem State.Matched.observed {u u' : State} (h : u.Matched u') :
    u'.status = u.status ∧ u'.outLen = u.outLen ∧ u'.phase = u.phase ∧
      (u.status.outValid = true → ∀ a < u.outLen.toNat, u'.outByte a = u.outByte a) := by
  cases h with
  | running h => exact ⟨h.status, h.outLen, h.phase, fun hv => absurd hv (by simp [h.invalid])⟩
  | ended h => exact ⟨h.status, h.outLen, h.phase'.trans h.phase.symm, h.output⟩

/-- Settles O60: START makes the two machines twins, and every step keeps them matched. -/
theorem decodeDependsOnItsInputOnly : Obligations.DecodeDependsOnItsInputOnly := by
  intro s s' t t' u k hidle hidle' hhost hhost' hhint hlen hcfg hin hstart hstart' hrun
  obtain rfl := exec_cmdStart_of_idle hidle hstart
  obtain rfl := exec_cmdStart_of_idle hidle' hstart'
  have hmatched := State.Matched.running (State.start_twin hhost hhost' hhint hlen hcfg hin)
  obtain ⟨u', hrun', hu⟩ := hmatched.run hrun
  exact ⟨u', hrun', hu.observed⟩

end Sys2Proof.Machine

namespace Sys2Proof.Machine

/-! ## The BitReader (40_bit_reader.md) -/

/-! ### Reading one byte, and the active reader -/

/-- MemRead of one byte inside IN_LEN delivers that byte (rule R9). -/
theorem memRead_one {s : State} {a : Nat} (hc : s.inCovered) (h : a < s.inLen.toNat) :
    memRead a 1 s = .ok [s.inByte a] s :=
  memRead_of_le hc h

theorem reader_of_some {s : State} {r : BitReader} (hr : s.br = some r) : reader s = .ok r s := by
  unfold reader
  rw [hr]

/-! ### NextBit (rule R71): one rule per branch -/

section NextBit
variable {s : State} {r : BitReader}

theorem refill_of_exhausted (h : r.hi ≤ r.idx) : refill r s = .error (.error .truncatedInput) s := by
  unfold refill
  rw [if_pos h]
  rfl

theorem refill_of_lt (hc : s.inCovered) (hin : r.hi ≤ s.inLen.toNat) (h : r.idx < r.hi) :
    refill r s = .ok { r with cur := s.inByte r.idx, idx := r.idx + 1, nbits := 8 } s := by
  unfold refill
  rw [if_neg (Nat.not_le.mpr h)]
  simp [memRead_one hc (Nat.lt_of_lt_of_le h hin)]

theorem nextBit_of_limit_le (hr : s.br = some r) (h : r.limit ≤ r.pos) :
    nextBit s = .error (.error .truncatedInput) s := by
  simp [nextBit, reader_of_some hr, h]

theorem nextBit_of_exhausted (hr : s.br = some r) (hpos : r.pos < r.limit) (h0 : r.nbits = 0)
    (h : r.hi ≤ r.idx) : nextBit s = .error (.error .truncatedInput) s := by
  simp [nextBit, reader_of_some hr, Nat.not_le.mpr hpos, h0, refill_of_exhausted h]

theorem nextBit_of_refill (hc : s.inCovered) (hr : s.br = some r) (hin : r.hi ≤ s.inLen.toNat)
    (hpos : r.pos < r.limit) (h0 : r.nbits = 0) (h : r.idx < r.hi) :
    nextBit s = .ok ((s.inByte r.idx).getLsbD 7)
      (s.setReader { r with cur := s.inByte r.idx, idx := r.idx + 1, nbits := 7 }) := by
  simp [nextBit, reader_of_some hr, Nat.not_le.mpr hpos, h0, refill_of_lt hc hin h]

theorem nextBit_of_loaded (hr : s.br = some r) (hpos : r.pos < r.limit) (h0 : r.nbits ≠ 0) :
    nextBit s = .ok (r.cur.getLsbD (r.nbits - 1)) (s.setReader { r with nbits := r.nbits - 1 }) := by
  simp [nextBit, reader_of_some hr, Nat.not_le.mpr hpos, h0]

end NextBit

/-- BR_REFILL hands back the bit NextBit delivers (rule R71). -/
theorem exec_brRefill_of_ok {s t : State} {b : Bool} (h : nextBit s = .ok b t) :
    exec .brRefill s = .next (t.setRet b.toNat) :=
  runValue_of_ok (by simp [h])

/-- BR_REFILL takes the error NextBit raises. -/
theorem exec_brRefill_of_error {s t : State} {e : ErrCode} (h : nextBit s = .error (.error e) t) :
    exec .brRefill s = .next (t.raise e) :=
  runValue_of_error (by simp [h])

/-- Settles O17: each clause is one branch of NextBit. -/
theorem nextBitRefillsLazily : Obligations.NextBitRefillsLazily := by
  intro s r hc hr hin
  refine ⟨fun hlimit => ?atLimit, fun hpos h0 hhi => ?exhausted, fun hpos h0 hidx => ?refilled,
    fun hpos h0 => ?loaded⟩
  case atLimit => exact exec_brRefill_of_error (nextBit_of_limit_le hr hlimit)
  case exhausted => exact exec_brRefill_of_error (nextBit_of_exhausted hr hpos h0 hhi)
  case refilled => exact exec_brRefill_of_ok (nextBit_of_refill hc hr hin hpos h0 hidx)
  case loaded => exact exec_brRefill_of_ok (nextBit_of_loaded hr hpos h0)

/-! ### BR_CHECKPAD (rule R73) -/

section CheckZeroBits
variable {s : State} {lo len q n : Nat}

/-- The padding check looks at one stream bit and, if it is 0, goes on with the next. -/
theorem checkZeroBits_succ (hc : s.inCovered) (h : lo + q / 8 < s.inLen.toNat) :
    checkZeroBits lo q (n + 1) s =
      if s.streamBit lo q = true then .error (.error .huffmanTableCorrupt) s else checkZeroBits lo (q + 1) n s := by
  simp only [checkZeroBits, Op.bind_apply, memRead_one hc h, List.headD_cons, State.streamBit]
  exact apply_ite (fun op : Op Unit => op s) ..

/-- The check passes over stream bits that are all 0, inside `len` bytes of IN, and changes nothing. -/
theorem checkZeroBits_of_zeros (hc : s.inCovered) (hin : lo + len ≤ s.inLen.toNat) (hn : q + n ≤ len * 8)
    (hzero : ∀ p, q ≤ p → p < q + n → s.streamBit lo p = false) : checkZeroBits lo q n s = .ok () s := by
  induction n generalizing q with
  | zero => rfl
  | succ n ih =>
    have hfirst : s.streamBit lo q = false := hzero q (by omega) (by omega)
    have hrest : ∀ p, q + 1 ≤ p → p < q + 1 + n → s.streamBit lo p = false :=
      fun p hle hlt => hzero p (by omega) (by omega)
    rw [checkZeroBits_succ hc (by omega), hfirst]
    exact ih (by omega) hrest

/-- The check raises HuffmanTableCorrupt at the first 1 among the bits, wherever it stands. -/
theorem checkZeroBits_of_one (hc : s.inCovered) (hin : lo + len ≤ s.inLen.toNat) (hn : q + n ≤ len * 8)
    {p : Nat} (hle : q ≤ p) (hlt : p < q + n) (hone : s.streamBit lo p = true) :
    checkZeroBits lo q n s = .error (.error .huffmanTableCorrupt) s := by
  induction n generalizing q with
  | zero => omega
  | succ n ih =>
    rw [checkZeroBits_succ hc (by omega)]
    split
    · rfl
    · rename_i hfirst
      have hne : p ≠ q := fun h => hfirst (h ▸ hone)
      exact ih (by omega) (by omega) (by omega)

end CheckZeroBits

section CheckPad
variable {s : State} {r : BitReader} {e : Nat}

theorem exec_brCheckpad_of_ok (hr : s.br = some r) (h : checkZeroBits r.lo r.pos (e - r.pos) s = .ok () s) :
    exec (.brCheckpad e) s = .next (s.setReader { r with idx := r.lo + e / 8, nbits := 0 }) :=
  runOp_of_ok (by simp [brCheckpadOp, reader_of_some hr, h])

theorem exec_brCheckpad_of_error (hr : s.br = some r) {err : ErrCode}
    (h : checkZeroBits r.lo r.pos (e - r.pos) s = .error (.error err) s) :
    exec (.brCheckpad e) s = .next (s.raise err) :=
  runOp_of_error (by simp [brCheckpadOp, reader_of_some hr, h])

end CheckPad

/-- A reader's bytes lie inside IN_LEN. -/
theorem State.ReaderOk.bytes_inside {s : State} {r : BitReader} (h : s.ReaderOk r) :
    r.lo + (r.hi - r.lo) ≤ s.inLen.toNat := by
  have hstart := h.start
  have hstop := h.stop
  have hinside := h.inside
  omega

/-- Settles O18: the bits the check looks at, `e - pos` of them from `pos` on, are the stream bits up to `e`. -/
theorem checkPadWantsZeroBits : Obligations.CheckPadWantsZeroBits := by
  intro s r e hc hr hok _ hpos he
  have hbits : r.pos + (e - r.pos) = e := Nat.add_sub_cancel' hpos
  have hfits : r.pos + (e - r.pos) ≤ (r.hi - r.lo) * 8 := hbits.le.trans he
  constructor
  · intro hzero
    exact exec_brCheckpad_of_ok hr (checkZeroBits_of_zeros hc hok.bytes_inside hfits
      fun q hle hlt => hzero q hle (hbits ▸ hlt))
  · rintro ⟨q, hle, hlt, hone⟩
    exact exec_brCheckpad_of_error hr (checkZeroBits_of_one hc hok.bytes_inside hfits hle (hbits.symm ▸ hlt) hone)

end Sys2Proof.Machine

namespace Sys2Proof.Machine

/-! ## The Huffman table (41_huffman_table.md): runs of a description, and the walk -/

/-! ### Operations that read the stream

`s.Takes r op n a` and `s.Raises r op e` say how an operation that moves nothing but the reader ends when it begins at
reader `r`; `s.Reads r op n a` puts both together for an operation that needs `n` bits. Their rules follow the
pseudocode, so that a rule about an operation has no intermediate states in it. -/

/-- At reader `r` the operation takes `n` bits of the stream and answers `a`. -/
def State.Takes {α : Type} (s : State) (r : BitReader) (op : Op α) (n : Nat) (a : α) : Prop :=
  ∃ r', op (s.setReader r) = .ok a (s.setReader r') ∧ s.ReaderOk r' ∧ r.Moved r' n

/-- At reader `r` the operation raises `e`. -/
def State.Raises {α : Type} (s : State) (r : BitReader) (op : Op α) (e : ErrCode) : Prop :=
  ∃ r', op (s.setReader r) = .error (.error e) (s.setReader r')

/-- At reader `r` the operation answers `a` from the next `n` bits if the limit leaves them, and if not it raises
TruncatedInput. -/
structure State.Reads {α : Type} (s : State) (r : BitReader) (op : Op α) (n : Nat) (a : α) : Prop where
  takes : r.pos + n ≤ r.limit → s.Takes r op n a
  raises : r.limit < r.pos + n → s.Raises r op .truncatedInput

theorem BitReader.Moved.refl (r : BitReader) : r.Moved r 0 := ⟨rfl, rfl, rfl, rfl⟩

theorem BitReader.Moved.trans {r r' r'' : BitReader} {n m : Nat} (h : r.Moved r' n) (h' : r'.Moved r'' m) :
    r.Moved r'' (n + m) :=
  ⟨h'.lo.trans h.lo, h'.hi.trans h.hi, h'.limit.trans h.limit, by rw [h'.pos, h.pos, Nat.add_assoc]⟩

theorem State.setReader_self {s : State} {r : BitReader} (hr : s.br = some r) : s.setReader r = s := by
  unfold State.setReader
  rw [← hr]

@[simp] theorem State.table_setReader (s : State) (r : BitReader) (t : TableId) :
    (s.setReader r).table t = s.table t := by
  cases t <;> rfl

@[simp] theorem State.inByte_setReader (s : State) (r : BitReader) (a : Nat) : (s.setReader r).inByte a = s.inByte a :=
  rfl

section Stream
variable {α β : Type} {s : State} {r : BitReader} {n m : Nat} {a : α} {b : β} {e : ErrCode} {op : Op α} {f : α → Op β}

theorem State.Takes.pure (hok : s.ReaderOk r) (a : α) : s.Takes r (Pure.pure a : Op α) 0 a :=
  ⟨r, rfl, hok, .refl r⟩

/-- The second part goes on at the reader the first leaves. -/
theorem State.Takes.bind (h : s.Takes r op n a)
    (hf : ∀ r', s.ReaderOk r' → r.Moved r' n → s.Takes r' (f a) m b) : s.Takes r (op >>= f) (m + n) b := by
  obtain ⟨r', hop, hok, hmoved⟩ := h
  obtain ⟨r'', hop', hok', hmoved'⟩ := hf r' hok hmoved
  exact ⟨r'', by rw [Op.bind_apply, hop]; exact hop', hok', Nat.add_comm n m ▸ hmoved.trans hmoved'⟩

theorem State.Takes.bind_raises (h : s.Takes r op n a)
    (hf : ∀ r', s.ReaderOk r' → r.Moved r' n → s.Raises r' (f a) e) : s.Raises r (op >>= f) e := by
  obtain ⟨r', hop, hok, hmoved⟩ := h
  obtain ⟨r'', hop'⟩ := hf r' hok hmoved
  exact ⟨r'', by rw [Op.bind_apply, hop]; exact hop'⟩

/-- No statement runs after a raise (rule R9). -/
theorem State.Raises.bind (h : s.Raises r op e) (f : α → Op β) : s.Raises r (op >>= f) e := by
  obtain ⟨r', hop⟩ := h
  exact ⟨r', by rw [Op.bind_apply, hop]⟩

theorem State.Raises.raised (s : State) (r : BitReader) (e : ErrCode) : s.Raises r (raised e : Op α) e := ⟨r, rfl⟩

/-- An error that moved the reader alone is taken as if it had not: the reader is unspecified afterwards (rule R136). -/
theorem State.Raises.runValue {op : Op Nat} (hr : s.br = some r) (h : s.Raises r op e) :
    Machine.runValue op s = .next (s.raise e) := by
  obtain ⟨r', hop⟩ := h
  have hrun := runValue_of_error hop
  rw [State.setReader_self hr] at hrun
  exact hrun

theorem State.Reads.pure (hok : s.ReaderOk r) (a : α) : s.Reads r (Pure.pure a : Op α) 0 a where
  takes _ := .pure hok a
  raises h := absurd hok.delivered (Nat.not_le.mpr h)

/-- Two parts read the bits of both: missing bits are noticed by the first part that needs them. -/
theorem State.Reads.bind (h : s.Reads r op n a)
    (hf : ∀ r', s.ReaderOk r' → r.Moved r' n → s.Reads r' (f a) m b) : s.Reads r (op >>= f) (m + n) b where
  takes hfits := (h.takes (by omega)).bind fun r' hok hmoved =>
    (hf r' hok hmoved).takes (by rw [hmoved.pos, hmoved.limit]; omega)
  raises hshort := by
    rcases Nat.lt_or_ge r.limit (r.pos + n) with hfirst | hfits
    · exact (h.raises hfirst).bind f
    · exact (h.takes hfits).bind_raises fun r' hok hmoved =>
        (hf r' hok hmoved).raises (by rw [hmoved.pos, hmoved.limit]; omega)

/-- A pure last statement needs no bits. -/
theorem State.Reads.bind_pure (h : s.Reads r op n a) (g : α → β) :
    s.Reads r (op >>= fun a => Pure.pure (g a)) n (g a) := by
  have hbind := h.bind (f := fun a => Pure.pure (g a)) fun _ hok _ => .pure hok (g a)
  rwa [Nat.zero_add] at hbind

/-! ### Bits and fields -/

/-- Under its limit a reader with no bit loaded has a byte left to load (rules R69, R71). -/
theorem State.ReaderOk.idx_lt_hi (hok : s.ReaderOk r) (hpos : r.pos < r.limit) (h0 : r.nbits = 0) : r.idx < r.hi := by
  have hbounded := hok.bounded
  have hstart := hok.start
  unfold BitReader.pos at hpos
  omega

/-- A bit of a byte is the stream bit as far from the byte's first (rule R37). -/
theorem State.getLsbD_eq_streamBit (s : State) {lo a q k : Nat} (hlo : lo ≤ a) (hk : k ≤ 7)
    (hq : q = (a - lo) * 8 + (7 - k)) : (s.inByte a).getLsbD k = s.streamBit lo q := by
  have haddr : lo + q / 8 = a := by omega
  have hbit : 7 - q % 8 = k := by omega
  rw [State.streamBit, haddr, hbit]

/-- Under the limit NextBit delivers the stream bit at the position (rules R37, R71). -/
theorem nextBit_takes (hc : s.inCovered) (hok : s.ReaderOk r) (hpos : r.pos < r.limit) :
    s.Takes r nextBit 1 (s.streamBit r.lo r.pos) := by
  have hstart := hok.start
  have hbit : ∀ {a k}, r.lo ≤ a → k ≤ 7 → r.pos = (a - r.lo) * 8 + (7 - k) →
      (s.inByte a).getLsbD k = s.streamBit r.lo r.pos := s.getLsbD_eq_streamBit
  have hlimit : r.pos + 1 ≤ r.limit := hpos
  by_cases h0 : r.nbits = 0
  · have hidx := hok.idx_lt_hi hpos h0
    have hop := nextBit_of_refill (s := s.setReader r) hc rfl hok.inside hpos h0 hidx
    have hat : r.pos = (r.idx - r.lo) * 8 + (7 - 7) := by simp [BitReader.pos, h0]
    have hnew : (r.idx + 1 - r.lo) * 8 - 7 = r.pos + 1 := by omega
    rw [State.inByte_setReader, hbit hstart (by omega) hat] at hop
    exact ⟨_, hop, ⟨by dsimp; omega, hidx, hok.inside, hok.bounded, hnew.trans_le hlimit, by simp,
      fun _ => ⟨by dsimp; omega, rfl⟩⟩, rfl, rfl, rfl, hnew⟩
  · obtain ⟨hidx, hcur⟩ := hok.loaded h0
    have hwidth := hok.width
    have hop := nextBit_of_loaded (s := s.setReader r) rfl hpos h0
    have hat : r.pos = (r.idx - 1 - r.lo) * 8 + (7 - (r.nbits - 1)) := by unfold BitReader.pos; omega
    have hnew : (r.idx - r.lo) * 8 - (r.nbits - 1) = r.pos + 1 := by unfold BitReader.pos; omega
    have hdelivered : r.cur.getLsbD (r.nbits - 1) = s.streamBit r.lo r.pos :=
      hcur ▸ hbit (by omega) (by omega) hat
    rw [hdelivered] at hop
    exact ⟨_, hop, ⟨hstart, hok.stop, hok.inside, hok.bounded, hnew.trans_le hlimit, by dsimp; omega,
      fun _ => ⟨hidx, hcur⟩⟩, rfl, rfl, rfl, hnew⟩

/-- At the limit NextBit raises TruncatedInput (rule R71). -/
theorem nextBit_raises (h : r.limit ≤ r.pos) : s.Raises r nextBit .truncatedInput :=
  ⟨r, nextBit_of_limit_le rfl h⟩

theorem nextBit_reads (hc : s.inCovered) (hok : s.ReaderOk r) : s.Reads r nextBit 1 (s.streamBit r.lo r.pos) where
  takes h := nextBit_takes hc hok h
  raises h := nextBit_raises (Nat.le_of_lt_succ h)

/-- readBits reads its bits one after another, each behind the value so far (rule R70). -/
theorem readBitsFrom_reads (hc : s.inCovered) (hok : s.ReaderOk r) (v : Nat) :
    s.Reads r (readBitsFrom v n) n ((s.streamBits r.lo r.pos n).foldl (fun v b => v * 2 + b.toNat) v) := by
  induction n generalizing r v with
  | zero => exact .pure hok v
  | succ n ih =>
    refine (nextBit_reads hc hok).bind fun r' hok' hmoved => ?_
    have hrest := ih hok' (v * 2 + (s.streamBit r.lo r.pos).toNat)
    rwa [hmoved.lo, hmoved.pos] at hrest

theorem readBits_reads (hc : s.inCovered) (hok : s.ReaderOk r) :
    s.Reads r (readBits n) n (bitsValue (s.streamBits r.lo r.pos n)) :=
  readBitsFrom_reads hc hok 0

end Stream

/-- The values of `n` fields of `w` bits each, one behind the other from bit `q` on (rule R77). -/
def State.fieldValues (s : State) (lo q w n : Nat) : List Nat :=
  (List.range n).map fun k => bitsValue (s.streamBits lo (q + k * w) w)

@[simp] theorem State.fieldValues_length (s : State) (lo q w n : Nat) : (s.fieldValues lo q w n).length = n := by
  simp [State.fieldValues]

theorem State.fieldValues_succ (s : State) (lo q w n : Nat) :
    s.fieldValues lo q w (n + 1) = bitsValue (s.streamBits lo q w) :: s.fieldValues lo (q + w) w n := by
  simp [State.fieldValues, List.range_succ_eq_map, Nat.succ_mul, Nat.add_assoc, Nat.add_comm w]

theorem State.getD_fieldValues (s : State) (lo q w : Nat) {n k : Nat} (h : k < n) :
    (s.fieldValues lo q w n).getD k 0 = bitsValue (s.streamBits lo (q + k * w) w) := by
  simp [State.fieldValues, List.getD_eq_getElem?_getD, h]

theorem readLens_reads {s : State} {r : BitReader} (hc : s.inCovered) (hok : s.ReaderOk r) (w n : Nat) :
    s.Reads r (readLens w n) (n * w) (s.fieldValues r.lo r.pos w n) := by
  induction n generalizing r with
  | zero =>
    rw [Nat.zero_mul]
    exact .pure hok []
  | succ n ih =>
    rw [Nat.succ_mul, State.fieldValues_succ]
    refine (readBits_reads hc hok).bind fun r' hok' hmoved => ?_
    have hrest := ih hok'
    rw [hmoved.lo, hmoved.pos] at hrest
    exact hrest.bind_pure _

/-! ### Writing lengths into a table -/

theorem length_overwrite {l new : List Nat} {i : Nat} (h : i + new.length ≤ l.length) :
    (overwrite l i new).length = l.length := by
  simp only [overwrite, List.length_append, List.length_take, List.length_drop]
  omega

/-- The overwritten entries are the new ones, in order; the others stay. -/
theorem getD_overwrite {l new : List Nat} {i : Nat} (h : i + new.length ≤ l.length) (j : Nat) :
    (overwrite l i new).getD j 0 = if i ≤ j ∧ j < i + new.length then new.getD (j - i) 0 else l.getD j 0 := by
  have htake : (l.take i).length = i := List.length_take_of_le (by omega)
  rw [overwrite, List.append_assoc]
  rcases Nat.lt_or_ge j i with hbefore | hfrom
  · rw [if_neg (by omega), List.getD_append _ _ _ _ (by omega)]
    simp [List.getD_eq_getElem?_getD, hbefore]
  · rw [List.getD_append_right _ _ _ _ (by omega), htake]
    rcases Nat.lt_or_ge j (i + new.length) with hin | hbehind
    · rw [if_pos ⟨hfrom, hin⟩, List.getD_append _ _ _ _ (by omega)]
    · rw [if_neg (by omega), List.getD_append_right _ _ _ _ (by omega)]
      have hj : i + new.length + (j - i - new.length) = j := by omega
      simp [List.getD_eq_getElem?_getD, hj]

/-- Lengths written into a table take the places from `i` on; its other lengths stay. -/
theorem getD_overwrite_of_values {l lens : List Nat} {i cnt : Nat} {value : Nat → Nat} (hnum : lens.length = cnt)
    (hvalue : ∀ k < cnt, lens.getD k 0 = value k) (h : i + cnt ≤ l.length) (j : Nat) :
    (overwrite l i lens).getD j 0 = if i ≤ j ∧ j < i + cnt then value (j - i) else l.getD j 0 := by
  rw [getD_overwrite (hnum.symm ▸ h), hnum]
  exact ite_congr rfl (fun hin => hvalue _ (Nat.sub_lt_left_of_lt_add hin.1 hin.2)) fun _ => rfl

/-! ### Runs (rules R76, R77)

Both kinds of run read a count, check it, read lengths and write them. `giveRun` is what they share. -/

/-- What a run of `cnt` symbols from `i` on does behind its count, in a table of `size` symbols. Its lengths are read by
`op`. -/
def giveLens (t : TableId) (i size cnt : Nat) (op : Op (List Nat)) : Op Nat :=
  if size < i + cnt then raised .huffmanTableCorrupt
  else do
    let lens ← op
    update fun s => s.setLens t i lens
    return i + cnt

/-- A run of COUNT + `k` symbols from `i` on whose lengths `fields` reads. -/
def giveRun (t : TableId) (i k : Nat) (fields : Config → Nat → Op (List Nat)) : Op Nat := do
  let s ← get
  let count ← readBits s.cfg.runCountBits
  giveLens t i (s.table t).size (count + k) (fields s.cfg (count + k))

/-- The lengths of an "equal lengths" run: one field, for each of its symbols. -/
def readOneLen (cfg : Config) (cnt : Nat) : Op (List Nat) := do return List.replicate cnt (← readBits cfg.tableLenBits)

/-- The lengths of a "set of lengths" run: a field each. -/
def readEachLen (cfg : Config) (cnt : Nat) : Op (List Nat) := readLens cfg.tableLenBits cnt

theorem runEqualOp_eq_giveRun (t : TableId) (i : Nat) : runEqualOp t i = giveRun t i 2 readOneLen := by
  simp [runEqualOp, giveRun, giveLens, readOneLen]

theorem runSetOp_eq_giveRun (t : TableId) (i : Nat) : runSetOp t i = giveRun t i 1 readEachLen := rfl

theorem exec_htRunEqual (t : TableId) (i : Nat) (s : State) :
    exec (.htRunEqual t i) s = runValue (giveRun t i 2 readOneLen) s :=
  congrArg (runValue · s) (runEqualOp_eq_giveRun t i)

theorem exec_htRunSet (t : TableId) (i : Nat) (s : State) :
    exec (.htRunSet t i) s = runValue (giveRun t i 1 readEachLen) s :=
  congrArg (runValue · s) (runSetOp_eq_giveRun t i)

/-- How many symbols a run has whose count field stands at reader `r`: COUNT + `k` (rule R58). -/
abbrev State.runSymbols (s : State) (r : BitReader) (k : Nat) : Nat :=
  bitsValue (s.streamBits r.lo r.pos s.cfg.runCountBits) + k

section Run
variable {t : TableId} {i k m : Nat} {fields : Config → Nat → Op (List Nat)} {lens : List Nat} {s : State}
  {r : BitReader} {e : ErrCode}

/-- A run past the last symbol raises HuffmanTableCorrupt before any length is read (rules R76, R77). -/
theorem giveLens_of_past {size cnt : Nat} (h : size < i + cnt) (op : Op (List Nat)) :
    giveLens t i size cnt op = raised .huffmanTableCorrupt := if_pos h

theorem giveLens_of_le {size cnt : Nat} (h : i + cnt ≤ size) (op : Op (List Nat)) :
    giveLens t i size cnt op = do
      let lens ← op
      update fun s => s.setLens t i lens
      return i + cnt := if_neg (Nat.not_lt.mpr h)

/-- A run reads its count first, under the widths and the size the state has. -/
theorem giveRun_setReader : giveRun t i k fields (s.setReader r) = (do
    let count ← readBits s.cfg.runCountBits
    giveLens t i (s.table t).size (count + k) (fields s.cfg (count + k))) (s.setReader r) := by
  simp [giveRun]

theorem giveRun_raises_of_count_cut (hc : s.inCovered) (hok : s.ReaderOk r) (h : r.limit < r.pos + s.cfg.runCountBits) :
    s.Raises r (giveRun t i k fields) .truncatedInput := by
  rw [State.Raises, giveRun_setReader]
  exact ((readBits_reads hc hok).raises h).bind _

theorem giveRun_raises_of_past (hc : s.inCovered) (hok : s.ReaderOk r) (h : r.pos + s.cfg.runCountBits ≤ r.limit)
    (hpast : (s.table t).size < i + s.runSymbols r k) :
    s.Raises r (giveRun t i k fields) .huffmanTableCorrupt := by
  rw [State.Raises, giveRun_setReader]
  refine ((readBits_reads hc hok).takes h).bind_raises fun r' _ _ => ?_
  rw [giveLens_of_past hpast]
  exact .raised s r' _

theorem giveRun_raises_of_lens (hc : s.inCovered) (hok : s.ReaderOk r) (h : r.pos + s.cfg.runCountBits ≤ r.limit)
    (hfit : i + s.runSymbols r k ≤ (s.table t).size)
    (hlens : ∀ r', s.ReaderOk r' → r.Moved r' s.cfg.runCountBits → s.Raises r' (fields s.cfg (s.runSymbols r k)) e) :
    s.Raises r (giveRun t i k fields) e := by
  rw [State.Raises, giveRun_setReader]
  refine ((readBits_reads hc hok).takes h).bind_raises fun r' hok' hmoved => ?_
  rw [giveLens_of_le hfit]
  exact (hlens r' hok' hmoved).bind _

/-- A run whose fields are present writes the lengths they give, and answers the next index. -/
theorem giveRun_ok (hc : s.inCovered) (hok : s.ReaderOk r) (h : r.pos + s.cfg.runCountBits ≤ r.limit)
    (hfit : i + s.runSymbols r k ≤ (s.table t).size)
    (hlens : ∀ r', s.ReaderOk r' → r.Moved r' s.cfg.runCountBits →
      s.Takes r' (fields s.cfg (s.runSymbols r k)) m lens) :
    ∃ r', giveRun t i k fields (s.setReader r) = .ok (i + s.runSymbols r k) ((s.setReader r').setLens t i lens) ∧
      s.ReaderOk r' ∧ r.Moved r' (s.cfg.runCountBits + m) := by
  obtain ⟨r', hcount, hok', hmoved⟩ := (readBits_reads hc hok).takes h
  obtain ⟨r'', hfields, hok'', hmoved'⟩ := hlens r' hok' hmoved
  have hgive := giveLens_of_le (t := t) hfit (fields s.cfg (s.runSymbols r k))
  exact ⟨r'', by simp [giveRun_setReader, hcount, hgive, hfields], hok'', hmoved.trans hmoved'⟩

/-- A run by itself, in the order of its checks (rules R76, R77): its length fields take `m` bits, and the one for the
`j`-th symbol of the run holds `value j`. -/
theorem runValue_giveRun {value : Nat → Nat} (hc : s.inCovered) (hr : s.br = some r) (hok : s.ReaderOk r)
    (hlen : (s.table t).len.length = (s.table t).size) (hnum : lens.length = s.runSymbols r k)
    (hvalue : ∀ j < s.runSymbols r k, lens.getD j 0 = value j)
    (hlens : ∀ r', s.ReaderOk r' → r.Moved r' s.cfg.runCountBits →
      s.Reads r' (fields s.cfg (s.runSymbols r k)) m lens) :
    (r.limit < r.pos + s.cfg.runCountBits →
      runValue (giveRun t i k fields) s = .next (s.raise .truncatedInput)) ∧
    (r.pos + s.cfg.runCountBits ≤ r.limit → (s.table t).size < i + s.runSymbols r k →
      runValue (giveRun t i k fields) s = .next (s.raise .huffmanTableCorrupt)) ∧
    (r.pos + s.cfg.runCountBits ≤ r.limit → i + s.runSymbols r k ≤ (s.table t).size →
      r.limit < r.pos + s.cfg.runCountBits + m →
      runValue (giveRun t i k fields) s = .next (s.raise .truncatedInput)) ∧
    (r.pos + s.cfg.runCountBits + m ≤ r.limit → i + s.runSymbols r k ≤ (s.table t).size → ∃ r' new,
      runValue (giveRun t i k fields) s =
        .next (({ s with br := some r', ret := i + s.runSymbols r k }).setTable t { s.table t with len := new }) ∧
      s.ReaderOk r' ∧ r.Moved r' (s.cfg.runCountBits + m) ∧ new.length = (s.table t).size ∧
      ∀ j < (s.table t).size, new.getD j 0 =
        if i ≤ j ∧ j < i + s.runSymbols r k then value (j - i) else (s.table t).len.getD j 0) := by
  refine ⟨fun hcut => ?countCut, fun hw hpast => ?past, fun hw hfit hcut => ?lensCut, fun hw hfit => ?given⟩
  case countCut => exact (giveRun_raises_of_count_cut hc hok hcut).runValue hr
  case past => exact (giveRun_raises_of_past hc hok hw hpast).runValue hr
  case lensCut =>
    exact (giveRun_raises_of_lens hc hok hw hfit fun r' hok' hmoved =>
      (hlens r' hok' hmoved).raises (by rw [hmoved.pos, hmoved.limit]; exact hcut)).runValue hr
  case given =>
    obtain ⟨r', hop, hok', hmoved⟩ := giveRun_ok hc hok (by omega) hfit fun r' hok' hmoved =>
      (hlens r' hok' hmoved).takes (by rw [hmoved.pos, hmoved.limit]; exact hw)
    rw [State.setReader_self hr] at hop
    have hinside : i + s.runSymbols r k ≤ (s.table t).len.length := hlen.symm ▸ hfit
    refine ⟨r', overwrite (s.table t).len i lens, (runValue_of_ok hop).trans ?_, hok', hmoved,
      (length_overwrite (hnum.symm ▸ hinside)).trans hlen,
      fun j _ => getD_overwrite_of_values hnum hvalue hinside j⟩
    cases t <;> rfl

end Run

/-- Settles O19: a run with one length field, which stands for every symbol of the run. -/
theorem runEqualGivesOneLength : Obligations.RunEqualGivesOneLength := by
  intro t i s r hc hr hok hlen w cnt l
  have hfield : ∀ r', s.ReaderOk r' → r.Moved r' w →
      s.Reads r' (readOneLen s.cfg cnt) s.cfg.tableLenBits (List.replicate cnt l) := by
    intro r' hok' hmoved
    have hbits := readBits_reads hc hok' (n := s.cfg.tableLenBits)
    rw [hmoved.lo, hmoved.pos] at hbits
    exact hbits.bind_pure _
  rw [exec_htRunEqual]
  exact runValue_giveRun (value := fun _ => l) hc hr hok hlen List.length_replicate
    (fun _ => List.getD_replicate _) hfield

/-- Settles O20: a run with a length field for each symbol. -/
theorem runSetGivesEachItsLength : Obligations.RunSetGivesEachItsLength := by
  intro t i s r hc hr hok hlen w b cnt
  have hfields : ∀ r', s.ReaderOk r' → r.Moved r' w →
      s.Reads r' (readEachLen s.cfg cnt) (cnt * b) (s.fieldValues r.lo (r.pos + w) b cnt) := by
    intro r' hok' hmoved
    have hbits := readLens_reads hc hok' b cnt
    rwa [hmoved.lo, hmoved.pos] at hbits
  rw [exec_htRunSet]
  exact runValue_giveRun (value := fun k => bitsValue (s.streamBits r.lo (r.pos + w + k * b) b)) hc hr hok hlen
    (s.fieldValues_length ..) (fun _ => s.getD_fieldValues _ _ _) hfields

/-! ### The walk (rules R87 to R89) -/

section Tree
variable {nodes : List Node} {k v : Nat} {b : Bool} {bs : List Bool}

/-- The bits lead to a leaf: the first leads to it, or to an internal node from which the others do. -/
theorem treeSymbol_cons_eq_some : treeSymbol nodes k (b :: bs) = some v ↔
    ∃ c, (nodes.getD k {}).child b = some c ∧
      ((nodes.getD c {}).sym = some v ∧ bs = [] ∨ (nodes.getD c {}).sym = none ∧ treeSymbol nodes c bs = some v) := by
  cases hchild : (nodes.getD k {}).child b with
  | none =>
    simp only [treeSymbol, hchild]
    simp
  | some c =>
    simp only [treeSymbol, hchild, Option.some.injEq, exists_eq_left']
    cases (nodes.getD c {}).sym with
    | none => simp
    | some _ => simp [and_comm]

/-- The bits lead to an absent child: the first does, or it leads to an internal node from which the others do. -/
theorem treeMissing_cons : treeMissing nodes k (b :: bs) = true ↔
    (nodes.getD k {}).child b = none ∧ bs = [] ∨
      ∃ c, (nodes.getD k {}).child b = some c ∧ (nodes.getD c {}).sym = none ∧ treeMissing nodes c bs = true := by
  cases hchild : (nodes.getD k {}).child b with
  | none =>
    simp only [treeMissing, hchild]
    simp
  | some c =>
    simp only [treeMissing, hchild, Option.some.injEq, exists_eq_left']
    cases (nodes.getD c {}).sym with
    | none => simp
    | some _ => simp

/-- The bits end inside the tree: the first leads to an internal node from which the others do. -/
theorem treeInside_cons : treeInside nodes k (b :: bs) = true ↔
    ∃ c, (nodes.getD k {}).child b = some c ∧ (nodes.getD c {}).sym = none ∧ treeInside nodes c bs = true := by
  cases hchild : (nodes.getD k {}).child b with
  | none =>
    simp only [treeInside, hchild]
    simp
  | some c =>
    simp only [treeInside, hchild, Option.some.injEq, exists_eq_left']
    cases (nodes.getD c {}).sym with
    | none => simp
    | some _ => simp

end Tree

/-- What the walk does with the bit it has read at node `k`. -/
def walkEdge (nodes : List Node) (fuel k : Nat) (b : Bool) : Op Nat :=
  match (nodes.getD k {}).child b with
  | none => raised .huffmanTableCorrupt
  | some c =>
    match (nodes.getD c {}).sym with
    | some v => pure v
    | none => walk nodes fuel c

theorem walk_succ (nodes : List Node) (fuel k : Nat) :
    walk nodes (fuel + 1) k = nextBit >>= walkEdge nodes fuel k := rfl

section Walk
variable {nodes : List Node} {fuel k c v n : Nat} {b : Bool} {s : State} {r : BitReader}

theorem walkEdge_of_missing (h : (nodes.getD k {}).child b = none) :
    walkEdge nodes fuel k b = raised .huffmanTableCorrupt := by
  unfold walkEdge
  rw [h]

theorem walkEdge_of_leaf (h : (nodes.getD k {}).child b = some c) (hv : (nodes.getD c {}).sym = some v) :
    walkEdge nodes fuel k b = pure v := by
  simp only [walkEdge, h, hv]

theorem walkEdge_of_inner (h : (nodes.getD k {}).child b = some c) (hv : (nodes.getD c {}).sym = none) :
    walkEdge nodes fuel k b = walk nodes fuel c := by
  simp only [walkEdge, h, hv]

/-- Bits that lead to a leaf are taken, and its symbol is the answer (rule R87). -/
theorem walk_takes (hc : s.inCovered) (hok : s.ReaderOk r) (h : r.pos + n ≤ r.limit) (hfuel : n ≤ fuel)
    (htree : treeSymbol nodes k (s.streamBits r.lo r.pos n) = some v) : s.Takes r (walk nodes fuel k) n v := by
  induction n generalizing r k fuel with
  | zero => exact nomatch htree
  | succ n ih =>
    obtain ⟨fuel, rfl⟩ := Nat.exists_eq_add_of_lt hfuel
    obtain ⟨c, hchild, hrest⟩ := treeSymbol_cons_eq_some.mp htree
    rw [walk_succ]
    refine (nextBit_takes hc hok (by omega)).bind fun r' hok' hmoved => ?_
    rcases hrest with ⟨hleaf, hnil⟩ | ⟨hinner, hrest⟩
    · cases n with
      | zero =>
        rw [walkEdge_of_leaf hchild hleaf]
        exact .pure hok' v
      | succ n => exact nomatch hnil
    · rw [walkEdge_of_inner hchild hinner]
      rw [← hmoved.lo, ← hmoved.pos] at hrest
      exact ih hok' (by rw [hmoved.pos, hmoved.limit]; omega) (by omega) hrest

/-- Bits the last of which leads to an absent child raise HuffmanTableCorrupt (rule R88). -/
theorem walk_raises_of_missing (hc : s.inCovered) (hok : s.ReaderOk r) (h : r.pos + n ≤ r.limit) (hfuel : n ≤ fuel)
    (htree : treeMissing nodes k (s.streamBits r.lo r.pos n) = true) :
    s.Raises r (walk nodes fuel k) .huffmanTableCorrupt := by
  induction n generalizing r k fuel with
  | zero => exact nomatch htree
  | succ n ih =>
    obtain ⟨fuel, rfl⟩ := Nat.exists_eq_add_of_lt hfuel
    rw [walk_succ]
    refine (nextBit_takes hc hok (by omega)).bind_raises fun r' hok' hmoved => ?_
    rcases treeMissing_cons.mp htree with ⟨hmissing, _⟩ | ⟨c, hchild, hinner, hrest⟩
    · rw [walkEdge_of_missing hmissing]
      exact .raised s r' _
    · rw [walkEdge_of_inner hchild hinner]
      rw [← hmoved.lo, ← hmoved.pos] at hrest
      exact ih hok' (by rw [hmoved.pos, hmoved.limit]; omega) (by omega) hrest

/-- Bits that end at the limit inside the tree raise TruncatedInput (rule R89). -/
theorem walk_raises_of_inside (hc : s.inCovered) (hok : s.ReaderOk r) (h : r.pos + n = r.limit)
    (htree : treeInside nodes k (s.streamBits r.lo r.pos n) = true) :
    s.Raises r (walk nodes fuel k) .truncatedInput := by
  induction fuel generalizing r k n with
  | zero => exact .raised s r _
  | succ fuel ih =>
    rw [walk_succ]
    cases n with
    | zero => exact (nextBit_raises h.ge).bind _
    | succ n =>
      obtain ⟨c, hchild, hinner, hrest⟩ := treeInside_cons.mp htree
      refine (nextBit_takes hc hok (by omega)).bind_raises fun r' hok' hmoved => ?_
      rw [walkEdge_of_inner hchild hinner]
      rw [← hmoved.lo, ← hmoved.pos] at hrest
      exact ih hok' (by rw [hmoved.pos, hmoved.limit]; omega) hrest

/-- HT_DECODE walks from the root, with a bound on the edges that the reader's bits do not reach. -/
theorem decodeSymbol_setReader (t : TableId) :
    decodeSymbol t (s.setReader r) = walk (s.table t).node (r.limit - r.pos + 1) 0 (s.setReader r) := by
  simp [decodeSymbol, reader_of_some (s := s.setReader r) rfl]

end Walk

/-- Settles O24: the walk from the root. -/
theorem decodeSymbolWalksTheTree : Obligations.DecodeSymbolWalksTheTree := by
  intro t s r n hc hr hok hn
  have hfuel : n ≤ r.limit - r.pos + 1 := by omega
  have hraises : ∀ e, s.Raises r (walk (s.table t).node (r.limit - r.pos + 1) 0) e →
      exec (.htDecode t) s = .next (s.raise e) := by
    intro e h
    rw [State.Raises, ← decodeSymbol_setReader] at h
    exact State.Raises.runValue hr h
  refine ⟨fun v htree => ?leaf, fun htree => ?missing, fun hend htree => ?inside⟩
  case leaf =>
    obtain ⟨r', hop, hok', hmoved⟩ := walk_takes hc hok hn hfuel htree
    rw [← decodeSymbol_setReader, State.setReader_self hr] at hop
    exact ⟨r', hok', hmoved, runValue_of_ok hop⟩
  case missing => exact hraises _ (walk_raises_of_missing hc hok hn hfuel htree)
  case inside => exact hraises _ (walk_raises_of_inside hc hok hend htree)

end Sys2Proof.Machine

namespace Sys2Proof.Machine

/-! ## The sliding window (42_sliding_window.md) -/

section Copy
variable {s : State}

/-! ### OUT after a write and after a copy -/

/-- A byte stored at the cursor is the only change of OUT (rule R9). -/
theorem State.outByte_emit (s : State) (b : Byte) (a : Nat) :
    (s.emit b).outByte a = if a = s.oc then b else s.outByte a := by
  split
  · next h => rw [h, State.outByte_emit_same]
  · next h => exact State.outByte_emit_other s b h

/-- The last byte of a copy is read after all the bytes before it have been written (rule R147). -/
theorem State.copyBytes_succ_last (n d : Nat) (s : State) :
    State.copyBytes (n + 1) d s =
      (State.copyBytes n d s).emit ((State.copyBytes n d s).outByte (s.oc + n - d)) := by
  induction n generalizing s with
  | zero => rfl
  | succ n ih =>
    rw [State.copyBytes, ih, State.emit_oc, Nat.add_right_comm, Nat.add_assoc]
    rfl

/-- A copy changes the cursor and OUT alone. -/
theorem State.copyBytes_frame (n d : Nat) (s : State) :
    State.copyBytes n d s = { s with oc := s.oc + n, outMem := (State.copyBytes n d s).outMem } := by
  induction n generalizing s with
  | zero => rfl
  | succ n ih =>
    refine (ih _).trans ?_
    rw [State.emit_oc, Nat.add_right_comm]
    rfl

/-- The bytes a copy writes repeat the `d` bytes before the cursor. The byte at offset `n` is read `d` bytes earlier:
from the window itself while `n < d`, and from offset `n - d` of the copy after that, where the window repeats. -/
theorem State.copyBytes_copies {d : Nat} (hd : 1 ≤ d) (hle : d ≤ s.oc) (n : Nat) :
    s.Copies (State.copyBytes n d s) n d := by
  induction n with
  | zero => exact fun a => (if_neg (by omega)).symm
  | succ n ih =>
    have hlast : (State.copyBytes n d s).outByte (s.oc + n - d) = s.outByte (s.oc - d + n % d) := by
      rw [ih]
      rcases Nat.lt_or_ge n d with hn | hn
      · rw [if_neg (by omega), Nat.mod_eq_of_lt hn, Nat.sub_add_comm hle]
      · rw [if_pos (by omega), Nat.mod_eq_sub_mod hn, Nat.add_sub_assoc hn, Nat.add_sub_cancel_left]
    intro a
    rw [State.copyBytes_succ_last, State.outByte_emit, State.copyBytes_oc, hlast]
    by_cases ha : a = s.oc + n
    · rw [if_pos ha, if_pos (by omega), ha, Nat.add_sub_cancel_left]
    · rw [if_neg ha, ih]
      exact if_congr (by omega) rfl rfl

/-! ### Copy (rule R98): one rule per branch -/

theorem copyOp_of_badDistance {length distance : Nat} (h : distance < 1 ∨ s.oc < distance) :
    copyOp length distance s = .error (.error .invalidBackreference) s := by
  unfold copyOp
  rw [if_pos h]

theorem copyOp_of_long {length distance : Nat} (hd : 1 ≤ distance) (hle : distance ≤ s.oc)
    (h : s.declared < s.oc + length) : copyOp length distance s = .error (.error .lengthMismatch) s := by
  unfold copyOp
  rw [if_neg (by omega), if_pos h]

theorem copyOp_of_fits {length distance : Nat} (hd : 1 ≤ distance) (hle : distance ≤ s.oc)
    (h : s.oc + length ≤ s.declared) : copyOp length distance s = .ok () (State.copyBytes length distance s) := by
  unfold copyOp
  rw [if_neg (by omega), if_neg (Nat.not_lt.mpr h)]

end Copy

/-- Settles O27: one clause per branch of Copy; the window repeats by induction on the bytes copied. -/
theorem copyRepeatsTheWindow : Obligations.CopyRepeatsTheWindow := by
  intro length distance s
  refine ⟨fun hbad => ?badDistance, fun hd hle hlong => ?long, fun hd hle hfits => ?copied⟩
  case badDistance => exact runOp_of_error (copyOp_of_badDistance hbad)
  case long => exact runOp_of_error (copyOp_of_long hd hle hlong)
  case copied =>
    exact ⟨State.copyBytes length distance s, runOp_of_ok (copyOp_of_fits hd hle hfits),
      State.copyBytes_frame length distance s, State.copyBytes_copies hd hle length⟩

section Flags
variable {s : State}

/-! ### The step that runs what the fetch selects -/

theorem step_of_fetch_run {i : Instr} (hhost : s.host = []) (hf : fetch s = .run i) : step s = exec i s := by
  rw [step_of_host_nil hhost, engineTurn, hf]

theorem step_of_fetch_error {e : ErrCode} (hhost : s.host = []) (hf : fetch s = .error e) :
    step s = .next (s.raise e) := by
  rw [step_of_host_nil hhost, engineTurn, hf]

/-! ### One byte at the cursor, or none -/

theorem memRead_one_of_le {a : Nat} (h : s.inLen.toNat ≤ a) : memRead a 1 s = .error (.error .truncatedInput) s :=
  memRead_of_lt (Nat.lt_succ_of_le h)

theorem takeBytes_one_of_lt (hc : s.inCovered) (h : s.ip < s.inLen.toNat) :
    takeBytes 1 s = .ok [s.inByte s.ip] (s.setIp (s.ip + 1)) :=
  takeBytes_of_le hc h

/-- A missing byte is noticed before the cursor moves (rules R9, R33). -/
theorem takeBytes_one_of_le (h : s.inLen.toNat ≤ s.ip) : takeBytes 1 s = .error (.error .truncatedInput) s := by
  simp [takeBytes, memRead_one_of_le h]

/-! ### LZ_FLAGS (rule R92) -/

/-- Every byte is a flag byte (rule R52). -/
theorem decode_lzFlag8 (b : Byte) : decode .lzFlag8 (beValue [b]) [] = .ok (.lzFlags b) := by
  have hvalue : beValue [b] = b.toNat := by simp [beValue]
  have hfits : ¬ 2 ^ Context.lzFlag8.width ≤ b.toNat := Nat.not_le.mpr b.isLt
  simp [decode, hvalue, hfits, bitField]

theorem fetch_lzFlag_of_lt (hc : s.inCovered) (hphase : s.phase = .lzFlag) (h : s.ip < s.inLen.toNat) :
    fetch s = .run (.lzFlags (s.inByte s.ip)) := by
  simp [fetch, hphase, fetchWith, lookFlags, memRead_one hc h, decode_lzFlag8, Fetch.ofDecode]

theorem fetch_lzFlag_of_le (hphase : s.phase = .lzFlag) (h : s.inLen.toNat ≤ s.ip) :
    fetch s = .error .truncatedInput := by
  simp [fetch, hphase, fetchWith, lookFlags, memRead_one_of_le h]

theorem exec_lzFlags_of_lt (hc : s.inCovered) (b : Byte) (h : s.ip < s.inLen.toNat) :
    exec (.lzFlags b) s = .next (((s.setIp (s.ip + 1)).setFlags b).setPhase .lzToken) :=
  runOp_of_ok (by simp [takeBytes_one_of_lt hc h])

theorem exec_lzFlags_of_le (b : Byte) (h : s.inLen.toNat ≤ s.ip) :
    exec (.lzFlags b) s = .next (s.raise .truncatedInput) :=
  runOp_of_error (by simp [takeBytes_one_of_le h])

end Flags

/-- Settles O25: the step runs LZ_FLAGS on the byte at the cursor, and both notice a missing byte. -/
theorem flagByteIsTaken : Obligations.FlagByteIsTaken := by
  intro s b hc
  refine ⟨fun h => ?taken, fun h => ?missing, fun hhost hphase h => ?stepTaken, fun hhost hphase h => ?stepMissing⟩
  case taken => exact exec_lzFlags_of_lt hc b h
  case missing => exact exec_lzFlags_of_le b h
  case stepTaken =>
    rw [step_of_fetch_run hhost (fetch_lzFlag_of_lt hc hphase h)]
    exact exec_lzFlags_of_lt hc (s.inByte s.ip) h
  case stepMissing => exact step_of_fetch_error hhost (fetch_lzFlag_of_le hphase h)

section Literal
variable {s : State}

/-! ### LZ_NEXT (rule R99) -/

/-- LZ_NEXT counts the token, and chooses the phase by the output and by the count that is left. -/
theorem State.lzNext_eq (s : State) : s.lzNext =
    { s with
      fcnt := s.fcnt - 1, phase := lzPhase s.oc s.declared (s.fcnt - 1)
      status := s.status.closedIf (s.oc = s.declared) } := by
  unfold State.lzNext lzPhase
  by_cases hend : s.oc = s.declared
  · simp [hend, State.complete, Status.closedIf, Status.succeeded, State.setFcnt]
  · by_cases hcnt : s.fcnt - 1 = 0 <;> simp [hend, hcnt, Status.closedIf, State.setFcnt, State.setPhase]

@[simp] theorem State.outByte_lzNext (s : State) (a : Nat) : s.lzNext.outByte a = s.outByte a := by
  rw [State.lzNext_eq]
  rfl

/-! ### LZ_LIT (rule R93) -/

/-- Flag bit 0 selects the literal that follows (rule R52). -/
theorem decode_lzFlagbit_zero (b : Byte) (bs : List Byte) : decode .lzFlagbit 0 (b :: bs) = .ok (.lzLit b) := rfl

theorem fetch_lzToken_of_literal (hc : s.inCovered) (hphase : s.phase = .lzToken) (hflag : s.flagBit = false)
    (h : s.ip < s.inLen.toNat) : fetch s = .run (.lzLit (s.inByte s.ip)) := by
  simp [fetch, hphase, fetchWith, lookToken, hflag, lookLiteral, memRead_one hc h, decode_lzFlagbit_zero,
    Fetch.ofDecode]

/-- The state a literal leaves: the byte stored, then LZ_NEXT. -/
theorem exec_lzLit_of_lt (hc : s.inCovered) (b : Byte) (h : s.ip < s.inLen.toNat) (hopen : s.oc < s.declared) :
    exec (.lzLit b) s = .next ((s.setIp (s.ip + 1)).emit b).lzNext :=
  runOp_of_ok (by simp [takeBytes_one_of_lt hc h, emitByte_of_lt (s := s.setIp (s.ip + 1)) b hopen])

theorem exec_lzLit_of_le (b : Byte) (h : s.inLen.toNat ≤ s.ip) :
    exec (.lzLit b) s = .next (s.raise .truncatedInput) :=
  runOp_of_error (by simp [takeBytes_one_of_le h])

/-- A literal with its byte present and the output open is stored, and no other byte of OUT changes. -/
theorem exec_lzLit_stores (hc : s.inCovered) (b : Byte) (h : s.ip < s.inLen.toNat) (hopen : s.oc < s.declared) :
    ∃ t, exec (.lzLit b) s = .next t ∧ t = s.lzStepped 1 1 t.outMem ∧ s.Stores t b := by
  refine ⟨_, exec_lzLit_of_lt hc b h hopen, ?frame, fun a => ?stored⟩
  case frame =>
    rw [State.lzNext_eq]
    rfl
  case stored =>
    rw [State.outByte_lzNext]
    exact State.outByte_emit _ b a

end Literal

/-- Settles O26: the step runs LZ_LIT on the byte at the cursor. -/
theorem literalIsStored : Obligations.LiteralIsStored := by
  intro s b hc
  refine ⟨fun h hopen => ?stored, fun h => ?missing, fun hhost hphase hflag h hopen => ?stepStored⟩
  case stored => exact exec_lzLit_stores hc b h hopen
  case missing => exact exec_lzLit_of_le b h
  case stepStored =>
    rw [step_of_fetch_run hhost (fetch_lzToken_of_literal hc hphase hflag h)]
    exact exec_lzLit_stores hc (s.inByte s.ip) h hopen

end Sys2Proof.Machine

namespace Sys2Proof.Machine

/-! ## The Huf8 walk (43_huf8.md) -/

/-- What an error leaves does not depend on the walker registers it finds: they become unspecified (rule R136). -/
@[simp] theorem State.raise_setH8 (s : State) (r : Huf8Regs) (e : ErrCode) : (s.setH8 r).raise e = s.raise e := rfl

/-- A conditional operation runs one of its two branches. -/
theorem Op.ite_apply {α : Type} (c : Prop) [Decidable c] (x y : Op α) (s : State) :
    (if c then x else y) s = if c then x s else y s := by
  split <;> rfl

section Setup
variable {s : State}

/-! ### H8_SETUP (rule R102): one rule per branch -/

theorem exec_h8Setup_of_no_count (h : s.inLen.toNat ≤ 4) : exec .h8Setup s = .next (s.raise .truncatedInput) :=
  runOp_of_error (by simp [h8SetupOp, memRead_one_of_le h])

/-- The walker registers once the count byte has been read. -/
def State.counted (s : State) : Huf8Regs :=
  { s.h8 with sc := (s.inByte 4).toNat + 1, tsize := 2 * ((s.inByte 4).toNat + 1) - 1 }

/-- With its count byte present, H8_SETUP writes the table size before it looks at the output or at the table. -/
theorem h8SetupOp_of_count (hc : s.inCovered) (h : 4 < s.inLen.toNat) :
    h8SetupOp s =
      if s.declared = 0 then .ok () (s.setH8 s.counted).complete
      else if s.inLen.toNat < 5 + s.counted.tsize then .error (.error .truncatedInput) (s.setH8 s.counted)
      else .ok () ((s.setH8
        { s.counted with pidx := align4 (4 + 2 * s.counted.sc), pbits := 0, pw := 0, cur := 0 }).setPhase .h8Walk) := by
  have hcount : memRead 4 1 s = .ok [s.inByte 4] s := memRead_one hc h
  simp only [h8SetupOp, Op.bind_apply, hcount, update_apply, Op.get_apply, Op.ite_apply, raised_apply]
  rfl

theorem exec_h8Setup_of_empty (hc : s.inCovered) (h : 4 < s.inLen.toNat) (hempty : s.declared = 0) :
    exec .h8Setup s = .next (s.setH8 s.counted).complete :=
  runOp_of_ok (by rw [h8SetupOp_of_count hc h, if_pos hempty])

theorem exec_h8Setup_of_table_cut (hc : s.inCovered) (h : 4 < s.inLen.toNat) (hsome : s.declared ≠ 0)
    (hcut : s.inLen.toNat < 5 + s.counted.tsize) : exec .h8Setup s = .next (s.raise .truncatedInput) :=
  runOp_of_error (t := s.setH8 s.counted) (by rw [h8SetupOp_of_count hc h, if_neg hsome, if_pos hcut])

theorem exec_h8Setup_of_table_inside (hc : s.inCovered) (hsome : s.declared ≠ 0)
    (hin : 5 + s.counted.tsize ≤ s.inLen.toNat) :
    exec .h8Setup s = .next ((s.setH8
      { s.counted with pidx := align4 (4 + 2 * s.counted.sc), pbits := 0, pw := 0, cur := 0 }).setPhase .h8Walk) :=
  runOp_of_ok (by rw [h8SetupOp_of_count hc (by omega), if_neg hsome, if_neg (Nat.not_lt.mpr hin)])

end Setup

/-- Settles O30: each clause is one branch of H8_SETUP. -/
theorem huf8SetupOpensThePool : Obligations.Huf8SetupOpensThePool := by
  rintro s sc tsize hc rfl rfl
  refine ⟨fun h => ?noCount, fun h hempty => ?emptyOutput, fun h hsome hcut => ?tableCut, fun hsome hin => ?opened⟩
  case noCount => exact exec_h8Setup_of_no_count (Nat.le_of_lt_succ h)
  case emptyOutput => exact exec_h8Setup_of_empty hc h hempty
  case tableCut => exact exec_h8Setup_of_table_cut hc h hsome hcut
  case opened => exact exec_h8Setup_of_table_inside hc hsome hin

section Pool
variable {s : State}

/-! ### PoolBit (rule R103) -/

@[simp] theorem State.pooled_cur (s : State) : s.pooled.cur = s.h8.cur := by
  unfold State.pooled
  split <;> rfl

@[simp] theorem State.pooled_tsize (s : State) : s.pooled.tsize = s.h8.tsize := by
  unfold State.pooled
  split <;> rfl

theorem State.pooled_of_empty (h : s.h8.pbits = 0) :
    s.pooled = { s.h8 with
      pw := poolWord s.cfg.poolOrder (s.inBytes s.h8.pidx 4), pidx := s.h8.pidx + 4, pbits := 31 } := by
  unfold State.pooled poolWord
  rw [if_pos h]
  cases s.cfg.poolOrder <;> rfl

theorem State.pooled_of_loaded (h : s.h8.pbits ≠ 0) : s.pooled = { s.h8 with pbits := s.h8.pbits - 1 } :=
  if_neg h

/-- A pool bit is missing exactly if the word is used up and no whole word follows. -/
theorem State.not_poolReady : ¬ s.poolReady ↔ s.h8.pbits = 0 ∧ s.inLen.toNat < s.h8.pidx + 4 := by
  simp [State.poolReady]

theorem poolBit_of_not_ready (h : ¬ s.poolReady) : poolBit s = .error (.error .truncatedInput) s := by
  obtain ⟨h0, hcut⟩ := State.not_poolReady.mp h
  simp [poolBit, h0, memRead_of_lt hcut]

/-- A pool bit that can be delivered changes the pool registers alone. -/
theorem poolBit_of_ready (hc : s.inCovered) (h : s.poolReady) :
    poolBit s = .ok (s.pooled.pw.getLsbD s.pooled.pbits) (s.setH8 s.pooled) := by
  by_cases h0 : s.h8.pbits = 0
  · have hword : s.h8.pidx + 4 ≤ s.inLen.toNat := h.resolve_left (absurd h0)
    rw [State.pooled_of_empty h0]
    simp [poolBit, h0, memRead_of_le hc hword, State.setH8]
  · rw [State.pooled_of_loaded h0]
    simp [poolBit, h0]

end Pool

section Child
variable {s : State} {child : Nat}

/-! ### CheckChild (rules R107, R108) and EmitLeaf (rule R106) -/

/-- Rule R108: every edge leads forward, so the loop check never fires. -/
theorem lt_childIndex (i : Nat) (off : BitVec 6) (b : Nat) : i < childIndex i off b := by
  unfold childIndex
  omega

theorem nodeOff_toNat (node : Byte) : (nodeOff node).toNat = node.toNat % 64 := BitVec.toNat_setWidth ..

theorem checkChildOp_of_outside (h : s.h8.tsize ≤ child) :
    checkChildOp child s = .error (.error .huffmanTableCorrupt) s :=
  if_pos h

theorem checkChildOp_of_inside (h : child < s.h8.tsize) (hforward : s.h8.cur < child) :
    checkChildOp child s = .ok () s := by
  unfold checkChildOp
  rw [if_neg (Nat.not_le.mpr h), if_neg (Nat.not_le.mpr hforward)]

/-- A leaf's byte is stored, the walk returns to the root, and the call ends if the output is complete. -/
theorem emitLeafOp_of_lt (hc : s.inCovered) (hin : 5 + child < s.inLen.toNat) (hopen : s.oc < s.declared) :
    emitLeafOp child s =
      .ok () (s.leafStepped s.h8 (Memory.write s.oc (s.inByte (5 + child)) s.outMem)) := by
  simp only [emitLeafOp, Op.bind_apply, memRead_one hc hin, List.headD_cons, emitByte_of_lt _ hopen, update_apply]
  by_cases hend : s.oc + 1 = s.declared
  · simp [hend, State.leafStepped, State.complete, Status.closedIf, Status.succeeded, State.setH8, State.emit]
  · simp [hend, State.leafStepped, Status.closedIf, State.setPhase, State.setH8, State.emit]

/-- The byte written at the cursor is all a leaf changes in OUT. -/
theorem State.leafStepped_stores (s : State) (r : Huf8Regs) (b : Byte) :
    s.Stores (s.leafStepped r (Memory.write s.oc b s.outMem)) b :=
  s.outByte_emit b

end Child

section Edge
variable {s : State} {b : Nat} {leaf : Byte → Bool}

/-! ### One edge of the walk (rules R104, R105) -/

/-- The child an edge leads to: the node byte at the walk's position and the edge's own bit give it (rule R57). -/
def State.edgeChild (s : State) (b : Nat) : Nat := childIndex s.h8.cur (nodeOff (s.inByte (5 + s.h8.cur))) b

theorem h8EdgeOp_of_not_ready (h : ¬ s.poolReady) : h8EdgeOp b leaf s = .error (.error .truncatedInput) s := by
  simp [h8EdgeOp, poolBit_of_not_ready h]

theorem State.cur_lt_edgeChild (s : State) (b : Nat) : s.h8.cur < s.edgeChild b := lt_childIndex ..

/-- With a pool bit and its node byte present, an edge checks its child and goes on by the node's leaf flag. -/
theorem h8EdgeOp_of_ready (hc : s.inCovered) (hready : s.poolReady) (hnode : 5 + s.h8.cur < s.inLen.toNat) :
    h8EdgeOp b leaf s = (do
      checkChildOp (s.edgeChild b)
      if leaf (s.inByte (5 + s.h8.cur)) then emitLeafOp (s.edgeChild b)
      else update fun s' => s'.setH8 { s'.h8 with cur := s.edgeChild b }) (s.setH8 s.pooled) := by
  have hread : memRead (5 + s.h8.cur) 1 (s.setH8 s.pooled) = .ok [s.inByte (5 + s.h8.cur)] (s.setH8 s.pooled) :=
    memRead_one hc hnode
  simp only [h8EdgeOp, Op.bind_apply, poolBit_of_ready hc hready, Op.get_apply, State.setH8_h8, State.pooled_cur,
    hread]
  rfl

theorem h8EdgeOp_of_outside (hc : s.inCovered) (hready : s.poolReady) (hnode : 5 + s.h8.cur < s.inLen.toNat)
    (h : s.h8.tsize ≤ s.edgeChild b) :
    h8EdgeOp b leaf s = .error (.error .huffmanTableCorrupt) (s.setH8 s.pooled) := by
  have hcheck := checkChildOp_of_outside (s := s.setH8 s.pooled) (child := s.edgeChild b) (by simpa using h)
  rw [h8EdgeOp_of_ready hc hready hnode, Op.bind_apply, hcheck]

/-- An edge inside the table passes CheckChild: only the leaf flag is left to decide. -/
theorem h8EdgeOp_of_inside (hc : s.inCovered) (hready : s.poolReady) (hnode : 5 + s.h8.cur < s.inLen.toNat)
    (h : s.edgeChild b < s.h8.tsize) :
    h8EdgeOp b leaf s =
      (if leaf (s.inByte (5 + s.h8.cur)) then emitLeafOp (s.edgeChild b)
      else update fun s' => s'.setH8 { s'.h8 with cur := s.edgeChild b }) (s.setH8 s.pooled) := by
  have hcheck := checkChildOp_of_inside (s := s.setH8 s.pooled) (child := s.edgeChild b) (by simpa using h)
    (by simpa using s.cur_lt_edgeChild b)
  rw [h8EdgeOp_of_ready hc hready hnode, Op.bind_apply, hcheck]

theorem h8EdgeOp_of_node (hc : s.inCovered) (hready : s.poolReady) (hnode : 5 + s.h8.cur < s.inLen.toNat)
    (h : s.edgeChild b < s.h8.tsize) (hleaf : leaf (s.inByte (5 + s.h8.cur)) = false) :
    h8EdgeOp b leaf s = .ok () (s.setH8 { s.pooled with cur := s.edgeChild b }) := by
  rw [h8EdgeOp_of_inside hc hready hnode h, hleaf]
  rfl

theorem h8EdgeOp_of_leaf (hc : s.inCovered) (hready : s.poolReady) (htable : 5 + s.h8.tsize ≤ s.inLen.toNat)
    (hcur : s.h8.cur < s.h8.tsize) (h : s.edgeChild b < s.h8.tsize)
    (hleaf : leaf (s.inByte (5 + s.h8.cur)) = true) (hopen : s.oc < s.declared) :
    h8EdgeOp b leaf s = .ok ()
      (s.leafStepped s.pooled (Memory.write s.oc (s.inByte (5 + s.edgeChild b)) s.outMem)) := by
  rw [h8EdgeOp_of_inside hc hready (by omega) h, hleaf]
  exact emitLeafOp_of_lt (s := s.setH8 s.pooled) hc (by simp only [State.setH8_inLen]; omega) hopen

end Edge

/-- The operation of an edge's bit runs that edge; bit 0 reads L0, in bit 7 of the node byte, and bit 1 reads L1, in
bit 6 (rule R57). -/
theorem exec_h8Bit (b : Bool) (s : State) :
    exec (if b then .h8Bit1 else .h8Bit0) s =
      runOp (h8EdgeOp b.toNat fun node => node.getLsbD (if b then 6 else 7)) s := by
  cases b <;> rfl

/-- Settles O32: each clause is one branch of an edge, for both bits at once. -/
theorem huf8EdgesLeadToTheChild : Obligations.Huf8EdgesLeadToTheChild := by
  rintro b s _ _ child hc hcur htable rfl rfl hchild
  obtain rfl : child = s.edgeChild b.toNat := by rw [hchild, State.edgeChild, childIndex, nodeOff_toNat]
  have hnode : 5 + s.h8.cur < s.inLen.toNat := by omega
  rw [exec_h8Bit]
  refine ⟨fun hmissing => ?noBit, fun hready hout => ?outside, fun hready hin hleaf => ?node,
    fun hready hin hleaf hopen => ?leaf⟩
  case noBit => exact runOp_of_error (h8EdgeOp_of_not_ready hmissing)
  case outside => exact runOp_of_error (t := s.setH8 s.pooled) (h8EdgeOp_of_outside hc hready hnode hout)
  case node => exact runOp_of_ok (h8EdgeOp_of_node hc hready hnode hin hleaf)
  case leaf =>
    exact ⟨_, runOp_of_ok (h8EdgeOp_of_leaf hc hready htable hcur hin hleaf hopen), rfl, s.leafStepped_stores _ _⟩

end Sys2Proof.Machine

namespace Sys2Proof.Machine

/-! ## LZH8 (44_lzh8.md) -/

/-! ### The value of raw bits and the leading 1 before them (rules R37, R113) -/

@[simp] theorem State.length_streamBits (s : State) (lo q n : Nat) : (s.streamBits lo q n).length = n := by
  induction n generalizing q with
  | zero => rfl
  | succ n ih => rw [State.streamBits, List.length_cons, ih]

/-- Every bit read behind a value doubles the bound on it. -/
theorem foldl_bits_lt (bs : List Bool) {v k : Nat} (h : v < 2 ^ k) :
    bs.foldl (fun v b => v * 2 + b.toNat) v < 2 ^ (k + bs.length) := by
  induction bs generalizing v k with
  | nil => exact h
  | cons b bs ih =>
    have hbit := b.toNat_lt
    have hnext : v * 2 + b.toNat < 2 ^ (k + 1) := by
      rw [Nat.pow_succ]
      omega
    rw [List.length_cons, Nat.add_comm bs.length, ← Nat.add_assoc]
    exact ih hnext

theorem bitsValue_lt (bs : List Bool) : bitsValue bs < 2 ^ bs.length := by
  have h := foldl_bits_lt bs (v := 0) (k := 0) Nat.one_pos
  rwa [Nat.zero_add] at h

theorem State.bitsValue_streamBits_lt (s : State) (lo q n : Nat) : bitsValue (s.streamBits lo q n) < 2 ^ n := by
  simpa using bitsValue_lt (s.streamBits lo q n)

/-- The raw bits stay below the leading 1, so setting it adds it. -/
theorem lzh8Displacement_eq_add {displen raw : Nat} (h : raw < 2 ^ (displen - 1)) :
    lzh8Displacement displen raw = 2 ^ (displen - 1) + raw := by
  have hor := Nat.two_pow_add_eq_or_of_lt h 1
  rw [Nat.mul_one] at hor
  exact hor.symm

/-- A leading 1 and the bits below it fill `displen` bits. -/
theorem two_pow_pred_add_lt {displen raw : Nat} (hpos : 1 ≤ displen) (h : raw < 2 ^ (displen - 1)) :
    2 ^ (displen - 1) + raw < 2 ^ displen := by
  have hdouble : 2 ^ (displen - 1) * 2 = 2 ^ displen := Nat.two_pow_pred_mul_two hpos
  omega

/-! ### LZH8_DISP0 and LZH8_DISPN (rules R112, R113) -/

theorem exec_lzh8Disp0 (s : State) : exec .lzh8Disp0 s = .next { s with ret := 0 } := rfl

/-- LZH8_DISPN reads `displen - 1` raw bits and answers them behind a leading 1. -/
theorem lzh8DispnOp_reads {s : State} {r : BitReader} (hc : s.inCovered) (hok : s.ReaderOk r) (displen : Nat) :
    s.Reads r (lzh8DispnOp displen) (displen - 1)
      (2 ^ (displen - 1) + bitsValue (s.streamBits r.lo r.pos (displen - 1))) := by
  have hreads := (readBits_reads hc hok (n := displen - 1)).bind_pure (lzh8Displacement displen)
  rwa [lzh8Displacement_eq_add (s.bitsValue_streamBits_lt ..)] at hreads

/-- Settles O38: the rule of LZH8_DISPN's reads gives its answer and its error; only the bound on the answer is left. -/
theorem displacementsHaveALeadingOne : Obligations.DisplacementsHaveALeadingOne := by
  intro displen s
  refine ⟨exec_lzh8Disp0 s, fun r hc hr hok hcut => ?missing, fun hpos r hc hr hok hfits => ?read⟩
  case missing => exact ((lzh8DispnOp_reads hc hok displen.toNat).raises hcut).runValue hr
  case read =>
    obtain ⟨r', hop, hok', hmoved⟩ := (lzh8DispnOp_reads hc hok displen.toNat).takes hfits
    rw [State.setReader_self hr] at hop
    exact ⟨r', _, runValue_of_ok hop, hok', hmoved, rfl, two_pow_pred_add_lt hpos (s.bitsValue_streamBits_lt ..)⟩

end Sys2Proof.Machine

namespace Sys2Proof.Machine

/-! ## Romchu blocks (45_romchu.md) -/

/-! ### Bytes stored in order at the cursor -/

/-- Bytes stored in order change the cursor and OUT alone. -/
theorem State.emitAll_frame (bs : List Byte) (s : State) :
    State.emitAll bs s = { s with oc := s.oc + bs.length, outMem := (State.emitAll bs s).outMem } := by
  induction bs generalizing s with
  | nil => rfl
  | cons b bs ih =>
    refine (ih _).trans ?_
    rw [State.emit_oc, List.length_cons, Nat.add_right_comm]
    rfl

/-- Bytes of IN stored in order are read back at the cursor's old place, and no other byte of OUT changes. -/
theorem State.outByte_emitAll_inBytes (s t : State) (p n a : Nat) :
    (State.emitAll (s.inBytes p n) t).outByte a =
      if t.oc ≤ a ∧ a < t.oc + n then s.inByte (p + (a - t.oc)) else t.outByte a := by
  induction n generalizing p t with
  | zero => exact (if_neg (by omega)).symm
  | succ n ih =>
    rw [State.inBytes, State.emitAll, ih, State.emit_oc, State.outByte_emit]
    by_cases hfirst : a = t.oc
    · rw [if_neg (by omega), if_pos hfirst, if_pos (by omega), hfirst, Nat.sub_self, Nat.add_zero]
    · rw [if_neg hfirst]
      refine ite_congr (propext (by omega)) (fun _ => ?_) fun _ => rfl
      rw [show p + 1 + (a - (t.oc + 1)) = p + (a - t.oc) by omega]

section Block
variable {s : State}

/-! ### The block header (rule R116) -/

theorem rcHeaderOp_of_end (h : s.ip = s.inLen.toNat) : rcHeaderOp s = .error (.error .lengthMismatch) s := by
  simp [rcHeaderOp, h]

theorem rcHeaderOp_of_cut (hsome : s.ip < s.inLen.toNat) (h : s.inLen.toNat < s.ip + 4) :
    rcHeaderOp s = .error (.error .truncatedInput) s := by
  simp [rcHeaderOp, be32, Nat.ne_of_lt hsome, memRead_of_lt h]

theorem rcHeaderOp_of_le (hc : s.inCovered) (h : s.ip + 4 ≤ s.inLen.toNat) :
    rcHeaderOp s = .ok (beValue (s.inBytes s.ip 4)) s := by
  have hsome : s.ip ≠ s.inLen.toNat := by omega
  simp [rcHeaderOp, be32, hsome, memRead_of_le hc h]

/-- The state behind the header of a block of size `n`. -/
def State.rcOpened (s : State) (n : Nat) : State :=
  (s.setIp (s.ip + 4)).setRc { s.rc with n := n, payload := s.ip + 4 }

theorem rcOpenOp_of_le (hc : s.inCovered) (h : s.ip + 4 ≤ s.inLen.toNat) (n : Nat) :
    rcOpenOp n s = .ok () (s.rcOpened n) := by
  simp [rcOpenOp, rcHeaderOp_of_le hc h, State.rcOpened]

/-- What an error leaves does not depend on the header it finds taken: the registers become unspecified (rule R136). -/
@[simp] theorem State.raise_rcOpened (s : State) (n : Nat) (e : ErrCode) : (s.rcOpened n).raise e = s.raise e := rfl

@[simp] theorem State.resets_rcOpened (s : State) (n : Nat) : (s.rcOpened n).resets = s.resets := rfl

@[simp] theorem State.inBytes_rcOpened (s : State) (n a k : Nat) : (s.rcOpened n).inBytes a k = s.inBytes a k :=
  State.inBytes_congr (s := s.rcOpened n) (t := s) (fun _ => rfl) a k

/-! ### RC_BLOCK chooses a row by the header (rule R116) -/

/-- Two operations that run the same have the same outcome. -/
theorem runOp_congr {s' : State} {op op' : Op Unit} (h : op s = op' s') : runOp op s = runOp op' s' := by
  unfold runOp
  rw [h]

theorem exec_rcBlock_of_end (h : s.ip = s.inLen.toNat) : exec .rcBlock s = .next (s.raise .lengthMismatch) :=
  runOp_of_error (by simp [rcBlockOp, rcHeaderOp_of_end h])

theorem exec_rcBlock_of_cut (hsome : s.ip < s.inLen.toNat) (h : s.inLen.toNat < s.ip + 4) :
    exec .rcBlock s = .next (s.raise .truncatedInput) :=
  runOp_of_error (by simp [rcBlockOp, rcHeaderOp_of_cut hsome h])

/-- With its header present, RC_BLOCK opens the block of the header's low 31 bits and runs the kind bit 31 selects. -/
theorem rcBlockOp_of_le (hc : s.inCovered) (h : s.ip + 4 ≤ s.inLen.toNat) {w : Nat}
    (hw : beValue (s.inBytes s.ip 4) = w) :
    rcBlockOp s = (do
      rcOpenOp (w % 0x80000000)
      if w < 0x80000000 then rcRawOp else rcCompOp : Op Unit) s := by
  simp only [rcBlockOp, Op.bind_apply, rcHeaderOp_of_le hc h, hw]

theorem exec_rcBlock_of_raw (hc : s.inCovered) (h : s.ip + 4 ≤ s.inLen.toNat) {n : BitVec 31}
    (hw : beValue (s.inBytes s.ip 4) = n.toNat) : exec .rcBlock s = exec (.rcBlkRaw n) s := by
  have hsize : n.toNat % 0x80000000 = n.toNat := Nat.mod_eq_of_lt n.isLt
  have hkind : n.toNat < 0x80000000 := n.isLt
  exact runOp_congr (by rw [rcBlockOp_of_le hc h hw, hsize, if_pos hkind])

theorem exec_rcBlock_of_comp (hc : s.inCovered) (h : s.ip + 4 ≤ s.inLen.toNat) {n : BitVec 31}
    (hw : beValue (s.inBytes s.ip 4) = 0x80000000 + n.toNat) : exec .rcBlock s = exec (.rcBlkComp n) s := by
  have hsize : (0x80000000 + n.toNat) % 0x80000000 = n.toNat := by
    rw [Nat.add_mod_left, Nat.mod_eq_of_lt n.isLt]
  have hkind : ¬ 0x80000000 + n.toNat < 0x80000000 := Nat.not_lt.mpr (Nat.le_add_right ..)
  exact runOp_congr (by rw [rcBlockOp_of_le hc h hw, hsize, if_neg hkind])

/-! ### The payload of a raw block (rule R117): one rule per branch -/

theorem rcRawOp_of_long (h : s.declared < s.oc + s.rc.n) : rcRawOp s = .error (.error .lengthMismatch) s := by
  simp [rcRawOp, h]

theorem rcRawOp_of_cut (hfits : s.oc + s.rc.n ≤ s.declared) (h : s.inLen.toNat < s.rc.payload + s.rc.n) :
    rcRawOp s = .error (.error .truncatedInput) s := by
  simp [rcRawOp, Nat.not_lt.mpr hfits, h]

/-- A raw payload that fits is stored; then the output ends the call, or the next block follows. -/
theorem rcRawOp_of_fits (hc : s.inCovered) (hfits : s.oc + s.rc.n ≤ s.declared)
    (h : s.rc.payload + s.rc.n ≤ s.inLen.toNat) :
    rcRawOp s = .ok ()
      { s with
        ip := s.rc.payload + s.rc.n, rc := { s.rc with next := s.rc.payload + s.rc.n }
        oc := s.oc + s.rc.n, outMem := (State.emitAll (s.inBytes s.rc.payload s.rc.n) s).outMem
        phase := if s.oc + s.rc.n = s.declared then .done else .rcBlock
        status := s.status.closedIf (s.oc + s.rc.n = s.declared) } := by
  simp only [rcRawOp, Op.bind_apply, Op.get_apply, Op.ite_apply, if_neg (Nat.not_lt.mpr hfits),
    if_neg (Nat.not_lt.mpr h), memRead_of_le hc h, update_apply]
  rw [State.emitAll_frame, State.inBytes_length]
  by_cases hend : s.oc + s.rc.n = s.declared
  · simp [hend, State.complete, Status.closedIf, Status.succeeded, State.setIp, State.setRc]
  · simp [hend, Status.closedIf, State.setIp, State.setRc, State.setPhase]

/-- With its header present, RC_BLK_RAW copies the payload of the block it opens. -/
theorem exec_rcBlkRaw_of_le (hc : s.inCovered) (h : s.ip + 4 ≤ s.inLen.toNat) (n : BitVec 31) :
    exec (.rcBlkRaw n) s = runOp rcRawOp (s.rcOpened n.toNat) :=
  runOp_congr (by rw [Op.bind_apply, rcOpenOp_of_le hc h])

/-- OUT holds what has been stored behind the header, once the block's other registers are written too. -/
theorem State.outByte_rawStepped_emitAll (s : State) (bs : List Byte) (n a : Nat) :
    (s.rawStepped n (State.emitAll bs (s.rcOpened n)).outMem).outByte a =
      (State.emitAll bs (s.rcOpened n)).outByte a := by
  simp [State.outByte, State.rawStepped]

/-- A raw block that fits: its payload is stored, and the next block follows or the output ends the call. -/
theorem exec_rcBlkRaw_of_fits (hc : s.inCovered) {n : BitVec 31} (hfits : s.oc + n.toNat ≤ s.declared)
    (h : s.ip + 4 + n.toNat ≤ s.inLen.toNat) :
    exec (.rcBlkRaw n) s =
      .next (s.rawStepped n.toNat (State.emitAll (s.inBytes (s.ip + 4) n.toNat) (s.rcOpened n.toNat)).outMem) := by
  rw [exec_rcBlkRaw_of_le hc (Nat.le_of_add_right_le h), ← State.inBytes_rcOpened s n.toNat]
  exact runOp_of_ok (rcRawOp_of_fits (s := s.rcOpened n.toNat) hc hfits h)

/-- What RC_BLK_RAW does with its header present, branch by branch. -/
theorem rawBlockEffect_rcBlkRaw (hc : s.inCovered) (hhead : s.ip + 4 ≤ s.inLen.toNat) (n : BitVec 31) :
    RawBlockEffect (.rcBlkRaw n) n.toNat s := by
  have hexec := exec_rcBlkRaw_of_le hc hhead n
  refine ⟨fun hlong => ?long, fun hfits hcut => ?cut, fun hfits hin => ?copied⟩
  case long => rw [hexec, runOp_of_error (rcRawOp_of_long (s := s.rcOpened n.toNat) hlong), State.raise_rcOpened]
  case cut => rw [hexec, runOp_of_error (rcRawOp_of_cut (s := s.rcOpened n.toNat) hfits hcut), State.raise_rcOpened]
  case copied =>
    refine ⟨_, exec_rcBlkRaw_of_fits hc hfits hin, rfl, fun a => ?_⟩
    rw [State.outByte_rawStepped_emitAll]
    exact State.outByte_emitAll_inBytes s (s.rcOpened n.toNat) (s.ip + 4) n.toNat a

end Block

/-- Settles O39: RC_BLK_RAW by the branches of its payload, and RC_BLOCK because its header selects that row. -/
theorem rawBlockIsCopied : Obligations.RawBlockIsCopied := by
  intro n s hc hhead
  have hrow := rawBlockEffect_rcBlkRaw hc hhead n
  refine ⟨hrow, fun hw => ?_⟩
  unfold RawBlockEffect
  rw [exec_rcBlock_of_raw hc hhead hw]
  exact hrow

/-- Settles O40: the two ways a header can be missing, and the two kinds bit 31 selects. -/
theorem blockHeaderSelectsItsRow : Obligations.BlockHeaderSelectsItsRow := by
  intro s hc
  refine ⟨fun h => ?boundary, fun hsome h => ?partialHeader, fun n hhead hw => ?raw, fun n hhead hw => ?comp⟩
  case boundary => exact exec_rcBlock_of_end h
  case partialHeader => exact exec_rcBlock_of_cut hsome h
  case raw => exact exec_rcBlock_of_raw hc hhead hw
  case comp => exact exec_rcBlock_of_comp hc hhead hw

end Sys2Proof.Machine

namespace Sys2Proof.Machine

/-! ## The dispatcher (46_dispatcher.md) -/

/-! ### START (rule R125) -/

theorem exec_cmdStart (s : State) : exec .cmdStart s = if s.status.busy then .next s else .next s.start := rfl

/-- Settles O1: `State.start` writes the registers rule R125 names, and BUSY decides whether START takes it. -/
theorem cmdStartBeginsACall : Obligations.CmdStartBeginsACall := by
  intro s
  refine ⟨fun hidle => ?idle, fun hbusy => ?busy⟩
  case idle =>
    rw [exec_cmdStart, if_neg (by simp [hidle])]
    rfl
  case busy => rw [exec_cmdStart, if_pos hbusy]

/-! ### TagPresent (rule R127) -/

/-- The four conditions of rule R127, for candidate bytes that stand for IN[0..3]. -/
abbrev State.TagConditions (s : State) (b0 b1 b2 b3 : Byte) : Prop :=
  s.hint.toNat ≤ 2 ∧ 5 ≤ s.inLen.toNat ∧
    (∀ b ∈ [b0, b1, b2, b3], 0x20 ≤ b.toNat ∧ b.toNat ≤ 0x7E) ∧ (s.inByte 4 = 0x10 ∨ s.inByte 4 = 0x11)

section Tag
variable {s : State} {b0 b1 b2 b3 : Byte}

theorem printable_iff {b : Byte} : printable b = true ↔ 0x20 ≤ b.toNat ∧ b.toNat ≤ 0x7E := by
  simp [printable]

theorem State.tagAdmitted_iff : s.tagAdmitted = true ↔ s.hint.toNat ≤ 2 ∧ 5 ≤ s.inLen.toNat := by
  simp [State.tagAdmitted]

theorem tagBytes_iff (rule : AsciiTagRule) (b4 : Byte) : tagBytes rule b0 b1 b2 b3 b4 = true ↔
    (∀ b ∈ [b0, b1, b2, b3], 0x20 ≤ b.toNat ∧ b.toNat ≤ 0x7E) ∧ (b4 = 0x10 ∨ b4 = 0x11) := by
  cases rule
  simp [tagBytes, printable_iff, and_assoc]

/-- Under an admitted hint and length, the conditions are those on the bytes. -/
theorem State.tagConditions_iff_tagBytes (hadmitted : s.tagAdmitted = true) :
    s.TagConditions b0 b1 b2 b3 ↔ tagBytes s.cfg.asciiTagRule b0 b1 b2 b3 (s.inByte 4) = true := by
  obtain ⟨hhint, hlen⟩ := State.tagAdmitted_iff.mp hadmitted
  rw [tagBytes_iff]
  exact ⟨fun ⟨_, _, hbytes⟩ => hbytes, fun hbytes => ⟨hhint, hlen, hbytes⟩⟩

theorem exec_tagPresent_of_not_admitted (h : s.tagAdmitted = false) :
    exec (.tagPresent b0 b1 b2 b3) s = .next (s.setRet 0) :=
  runValue_of_ok (by simp [h])

/-- Under an admitted hint and length, IN[4] is below IN_LEN: it is read, and the bytes decide. -/
theorem exec_tagPresent_of_admitted (hc : s.inCovered) (h : s.tagAdmitted = true) :
    exec (.tagPresent b0 b1 b2 b3) s =
      .next (s.setRet (tagBytes s.cfg.asciiTagRule b0 b1 b2 b3 (s.inByte 4)).toNat) := by
  obtain ⟨_, hlen⟩ := State.tagAdmitted_iff.mp h
  have hread : memRead 4 1 s = .ok [s.inByte 4] s := memRead_one hc hlen
  exact runValue_of_ok (by simp [h, hread])

theorem exec_tagPresent (hc : s.inCovered) (b0 b1 b2 b3 : Byte) :
    exec (.tagPresent b0 b1 b2 b3) s = .next (s.setRet (if s.TagConditions b0 b1 b2 b3 then 1 else 0)) := by
  cases hadmitted : s.tagAdmitted with
  | false =>
    have hnot : ¬ s.TagConditions b0 b1 b2 b3 := fun ⟨hhint, hlen, _⟩ => by
      simp [State.tagAdmitted_iff.mpr ⟨hhint, hlen⟩] at hadmitted
    rw [exec_tagPresent_of_not_admitted hadmitted, if_neg hnot]
  | true =>
    rw [exec_tagPresent_of_admitted hc hadmitted, Bool.toNat, Bool.cond_eq_ite]
    simp only [State.tagConditions_iff_tagBytes hadmitted]

/-- The header stands behind a tag exactly when the conditions hold of IN[0..3] (rule R126). -/
theorem State.headerAt_eq_four :
    s.headerAt = 4 ↔ s.TagConditions (s.inByte 0) (s.inByte 1) (s.inByte 2) (s.inByte 3) := by
  have htype (v : Byte) : s.inByte 4 = v ↔ (s.inByte 4).toNat = v.toNat := BitVec.toNat_inj.symm
  simp [State.headerAt, State.TagConditions, htype, ← or_iff_not_imp_left, and_assoc]

end Tag

/-- Settles O8: the operation answers the conditions of rule R127, which on IN[0..3] are those of the header address. -/
theorem tagPresentAnswersItsConditions : Obligations.TagPresentAnswersItsConditions := by
  intro b0 b1 b2 b3 s hc
  have hexec := exec_tagPresent hc b0 b1 b2 b3
  refine ⟨hexec, fun h0 h1 h2 h3 => ⟨_, hexec, ?answer⟩⟩
  subst h0 h1 h2 h3
  rw [State.headerAt_eq_four, State.setRet_ret]
  exact one_ne_zero.ite_eq_left_iff

/-! ### CapacityCheck (rule R129) -/

section Capacity
variable {s : State} {len : Nat}

theorem capacityCheckOp_of_fits (h : s.outFits len) : capacityCheckOp len s = .ok () s := by
  unfold capacityCheckOp
  rw [if_neg]
  intro hany
  obtain ⟨c, hc, hlt⟩ := (Option.any_eq_true ..).mp hany
  exact Nat.not_lt.mpr (h c hc) (of_decide_eq_true hlt)

theorem capacityCheckOp_of_not_fits (h : ¬ s.outFits len) :
    capacityCheckOp len s = .error (.error .lengthMismatch) s := by
  unfold capacityCheckOp
  rw [if_pos]
  simpa [Option.any_eq_true] using h

end Capacity

/-- Settles O9: the check passes exactly when the length fits every finite OUT_CAPACITY. -/
theorem capacityCheckRefusesALargerLength : Obligations.CapacityCheckRefusesALargerLength := by
  intro len s
  refine ⟨fun hfits => ?fits, fun c hc hlt => ?refused⟩
  case fits => exact runOp_of_ok (capacityCheckOp_of_fits hfits)
  case refused => exact runOp_of_error (capacityCheckOp_of_not_fits fun hfits => Nat.not_lt.mpr (hfits c hc) hlt)

/-! ### Entry (rules R90, R91, R115, R131) -/

/-- Entry leaves the state the rules describe: format by format, and for an empty output apart. -/
theorem State.enter_eq_entered (s : State) (f : Format) (len : Nat) : s.enter f len = s.entered f len := by
  cases f with
  | huf8 | lzh8 => rfl
  | lz10 | lz11 | n64lz | romchu => cases len <;> rfl

theorem exec_entry (f : Format) (len : Nat) (s : State) : exec (.entry f len) s = .next (s.entered f len) := by
  rw [← State.enter_eq_entered]
  rfl

/-- Settles O10: the state Entry leaves, read off for each kind of format. -/
theorem entryPicksTheFirstPhase : Obligations.EntryPicksTheFirstPhase := by
  intro f len s
  refine ⟨exec_entry f len s, fun hwindow => ?window, fun hhuf8 => ?huf8, fun hlzh8 => ?lzh8, fun hromchu => ?romchu⟩
  case window => rcases hwindow with rfl | rfl | rfl <;> exact ⟨rfl, rfl, rfl⟩
  case huf8 => subst hhuf8; rfl
  case lzh8 => subst hlzh8; rfl
  case romchu => subst hromchu; exact ⟨rfl, rfl⟩

end Sys2Proof.Machine

namespace Sys2Proof

/-! ## Encodings (30_encoding.md) -/

/-- A field is what its bits of the value spell (rule R7). -/
theorem bitField_eq_of_toNat {w lo v : Nat} {x : BitVec w} (h : v / 2 ^ lo % 2 ^ w = x.toNat) : bitField w lo v = x :=
  BitVec.eq_of_toNat_eq h

/-- The least significant field of a value is the value, when it fits. -/
theorem bitField_zero_toNat {w : Nat} (x : BitVec w) : bitField w 0 x.toNat = x := by
  simp [bitField]

section Decode
variable {c : Context} {v : Nat} {rest : List Byte}

/-- An LE header word of a type and a length selects the row of the type (rules R48, R67). -/
theorem decodeHdrLe32_encoded (type : Byte) (len : BitVec 24) :
    decodeHdrLe32 (len.toNat * 256 + type.toNat) =
      if type = 0x10#8 then .dispatchLz10 len
      else if type = 0x11#8 then .dispatchLz11 len
      else if type = 0x28#8 then .dispatchHuf8 len
      else if type = 0x40#8 then .dispatchLzh8 len
      else .illegalLeType type len := by
  have htype : bitField 8 0 (len.toNat * 256 + type.toNat) = type := bitField_eq_of_toNat (by omega)
  have hlen : bitField 24 8 (len.toNat * 256 + type.toNat) = len := bitField_eq_of_toNat (by omega)
  unfold decodeHdrLe32
  rw [htype, hlen]

/-- An N64 header word of a type and a length selects the row of the type (rules R49, R67). -/
theorem decodeHdrBe32_encoded (ntype : BitVec 2) (len : BitVec 30) :
    decodeHdrBe32 (len.toNat * 4 + ntype.toNat) =
      if ntype = 1#2 then .dispatchN64lz len
      else if ntype = 2#2 then .dispatchRomchu len
      else if ntype = 0#2 then .illegalNtype0 len
      else .illegalNtype3 len := by
  have htype : bitField 2 0 (len.toNat * 4 + ntype.toNat) = ntype := bitField_eq_of_toNat (by omega)
  have hlen : bitField 30 2 (len.toNat * 4 + ntype.toNat) = len := bitField_eq_of_toNat (by omega)
  unfold decodeHdrBe32
  rw [htype, hlen]

theorem decode_hdrLe32 (h : v < 2 ^ 32) : decode .hdrLe32 v rest = .ok (decodeHdrLe32 v) := if_neg (Nat.not_le.mpr h)

theorem decode_hdrBe32 (h : v < 2 ^ 32) : decode .hdrBe32 v rest = .ok (decodeHdrBe32 v) := if_neg (Nat.not_le.mpr h)

theorem decode_lz10Tok16 (h : v < 2 ^ 16) :
    decode .lz10Tok16 v rest = .ok (.lz10Ref (bitField 4 12 v) (bitField 12 0 v)) := if_neg (Nat.not_le.mpr h)

theorem decode_lz11Info16 (h : v < 2 ^ 16) : decode .lz11Info16 v rest = decodeLz11 v rest := if_neg (Nat.not_le.mpr h)

theorem decode_lzh8Sym1 (h : v < 2 ^ 9) : decode .lzh8Sym1 v rest =
    if v < 0x100 then .ok (.lzh8Lit (bitField 8 0 v)) else .ok (.lzh8Ref (bitField 8 0 v)) := if_neg (Nat.not_le.mpr h)

theorem decode_lzh8Sym2 (h : v < 2 ^ 5) : decode .lzh8Sym2 v rest =
    if v = 0 then .ok .lzh8Disp0 else .ok (.lzh8Dispn (bitField 5 0 v)) := if_neg (Nat.not_le.mpr h)

theorem decode_rcBlkhdr32 (h : v < 2 ^ 32) : decode .rcBlkhdr32 v rest =
    if v < 0x80000000 then .ok (.rcBlkRaw (bitField 31 0 v)) else .ok (.rcBlkComp (bitField 31 0 v)) :=
  if_neg (Nat.not_le.mpr h)

theorem decode_rcSym1 (h : v < 2 ^ 9) : decode .rcSym1 v rest =
    if v < 0x100 then .ok (.rcLit (bitField 8 0 v))
    else if v < 0x11D then .ok (.rcRef (bitField 8 0 v))
    else .ok (.reservedRcSym1 (bitField 9 0 v)) := if_neg (Nat.not_le.mpr h)

theorem decode_rcSym2 (h : v < 2 ^ 5) : decode .rcSym2 v rest =
    if v < 30 then .ok (.rcDistClass (bitField 5 0 v)) else .ok (.reservedRcSym2 (bitField 5 0 v)) :=
  if_neg (Nat.not_le.mpr h)

/-- A type and a length make an LE header word of 32 bits. -/
theorem leHeader_lt (type : Byte) (len : BitVec 24) : len.toNat * 256 + type.toNat < 2 ^ 32 := by omega

/-- A type and a length make an N64 header word of 32 bits. -/
theorem beHeader_lt (ntype : BitVec 2) (len : BitVec 30) : len.toNat * 4 + ntype.toNat < 2 ^ 32 := by omega

/-- An LE header word decodes to the row of its type. -/
theorem decode_leHeader (type : Byte) (len : BitVec 24) : decode .hdrLe32 (len.toNat * 256 + type.toNat) rest = .ok
    (if type = 0x10#8 then .dispatchLz10 len
      else if type = 0x11#8 then .dispatchLz11 len
      else if type = 0x28#8 then .dispatchHuf8 len
      else if type = 0x40#8 then .dispatchLzh8 len
      else .illegalLeType type len) := by
  rw [decode_hdrLe32 (leHeader_lt type len), decodeHdrLe32_encoded]

/-- An N64 header word decodes to the row of its type. -/
theorem decode_beHeader (ntype : BitVec 2) (len : BitVec 30) :
    decode .hdrBe32 (len.toNat * 4 + ntype.toNat) rest = .ok
    (if ntype = 1#2 then .dispatchN64lz len
      else if ntype = 2#2 then .dispatchRomchu len
      else if ntype = 0#2 then .illegalNtype0 len
      else .illegalNtype3 len) := by
  rw [decode_hdrBe32 (beHeader_lt ntype len), decodeHdrBe32_encoded]

theorem knownLeType_eq_false {type : Byte} (h : knownLeType type = false) :
    type ≠ 0x10#8 ∧ type ≠ 0x11#8 ∧ type ≠ 0x28#8 ∧ type ≠ 0x40#8 := by
  simpa [knownLeType, and_assoc] using h

theorem decode_tagPresent (b0 b1 b2 b3 : Byte) :
    decode .prefix32 (b0.toNat * 2 ^ 24 + b1.toNat * 2 ^ 16 + b2.toNat * 2 ^ 8 + b3.toNat) rest =
      .ok (.tagPresent b0 b1 b2 b3) := by
  have hfits : ¬ 2 ^ Context.prefix32.width ≤
      b0.toNat * 2 ^ 24 + b1.toNat * 2 ^ 16 + b2.toNat * 2 ^ 8 + b3.toNat := by simp only [Context.width]; omega
  simp only [decode, if_neg hfits, Except.ok.injEq, Instr.tagPresent.injEq]
  refine ⟨?_, ?_, ?_, ?_⟩ <;> exact bitField_eq_of_toNat (by omega)

theorem decode_lzFlag8_toNat (b : Byte) : decode .lzFlag8 b.toNat rest = .ok (.lzFlags b) := by
  have hfits : ¬ 2 ^ Context.lzFlag8.width ≤ b.toNat := Nat.not_le.mpr b.isLt
  simp only [decode, if_neg hfits, bitField_zero_toNat]

theorem decode_checkChild (l0 l1 : BitVec 1) (off : BitVec 6) :
    decode .h8Node8 (l0.toNat * 128 + l1.toNat * 64 + off.toNat) rest = .ok (.checkChild l0 l1 off) := by
  have hfits : ¬ 2 ^ Context.h8Node8.width ≤ l0.toNat * 128 + l1.toNat * 64 + off.toNat := by
    simp only [Context.width]; omega
  simp only [decode, if_neg hfits, Except.ok.injEq, Instr.checkChild.injEq]
  refine ⟨?_, ?_, ?_⟩ <;> exact bitField_eq_of_toNat (by omega)

/-- A token of two bytes, its length in the upper four bits. -/
theorem decode_lz10Ref (lm3 : BitVec 4) (dm1 : BitVec 12) :
    decode .lz10Tok16 (lm3.toNat * 4096 + dm1.toNat) rest = .ok (.lz10Ref lm3 dm1) := by
  rw [decode_lz10Tok16 (by omega), bitField_eq_of_toNat (x := lm3) (by omega),
    bitField_eq_of_toNat (x := dm1) (by omega)]

theorem decode_lz11RefShort {len1 : BitVec 4} (hlen : 2 ≤ len1.toNat) (dm1 : BitVec 12) :
    decode .lz11Info16 (len1.toNat * 4096 + dm1.toNat) rest = .ok (.lz11RefShort len1 dm1) := by
  rw [decode_lz11Info16 (by omega)]
  unfold decodeLz11
  rw [if_neg (by omega), if_neg (by omega),
    bitField_eq_of_toNat (x := len1) (by omega), bitField_eq_of_toNat (x := dm1) (by omega)]

theorem decode_lz11RefLong (len17 : BitVec 8) (dm1 : BitVec 12) :
    decode .lz11Info16 (len17.toNat * 16 + dm1.toNat / 256) (BitVec.ofNat 8 (dm1.toNat % 256) :: rest) =
      .ok (.lz11RefLong len17 dm1) := by
  rw [decode_lz11Info16 (by omega), decodeLz11, if_pos (by omega), bitField_eq_of_toNat (x := len17) (by omega)]
  simp only [BitVec.toNat_ofNat]
  rw [bitField_eq_of_toNat (x := dm1) (by omega)]

theorem decode_lz11RefMed (len273 : BitVec 16) (dm1 : BitVec 12) :
    decode .lz11Info16 (0x1000 + len273.toNat / 16)
      (BitVec.ofNat 8 (len273.toNat % 16 * 16 + dm1.toNat / 256) :: BitVec.ofNat 8 (dm1.toNat % 256) :: rest) =
      .ok (.lz11RefMed len273 dm1) := by
  rw [decode_lz11Info16 (by omega), decodeLz11, if_neg (by omega), if_pos (by omega)]
  simp only [BitVec.toNat_ofNat]
  rw [bitField_eq_of_toNat (x := len273) (by omega), bitField_eq_of_toNat (x := dm1) (by omega)]

theorem decode_lzh8Lit (b : Byte) : decode .lzh8Sym1 b.toNat rest = .ok (.lzh8Lit b) := by
  rw [decode_lzh8Sym1 (by omega), if_pos (by omega), bitField_zero_toNat]

theorem decode_lzh8Ref (len3 : BitVec 8) : decode .lzh8Sym1 (0x100 + len3.toNat) rest = .ok (.lzh8Ref len3) := by
  rw [decode_lzh8Sym1 (by omega), if_neg (by omega), bitField_eq_of_toNat (x := len3) (by omega)]

theorem decode_lzh8Dispn {displen : BitVec 5} (h : 1 ≤ displen.toNat) :
    decode .lzh8Sym2 displen.toNat rest = .ok (.lzh8Dispn displen) := by
  rw [decode_lzh8Sym2 displen.isLt, if_neg (by omega), bitField_zero_toNat]

theorem decode_rcBlkRaw (n : BitVec 31) : decode .rcBlkhdr32 n.toNat rest = .ok (.rcBlkRaw n) := by
  rw [decode_rcBlkhdr32 (by omega), if_pos (by omega), bitField_zero_toNat]

theorem decode_rcBlkComp (n : BitVec 31) : decode .rcBlkhdr32 (0x80000000 + n.toNat) rest = .ok (.rcBlkComp n) := by
  rw [decode_rcBlkhdr32 (by omega), if_neg (by omega), bitField_eq_of_toNat (x := n) (by omega)]

theorem decode_rcLit (b : Byte) : decode .rcSym1 b.toNat rest = .ok (.rcLit b) := by
  rw [decode_rcSym1 (by omega), if_pos (by omega), bitField_zero_toNat]

theorem decode_rcRef {cls : BitVec 8} (h : cls.toNat ≤ 28) :
    decode .rcSym1 (0x100 + cls.toNat) rest = .ok (.rcRef cls) := by
  rw [decode_rcSym1 (by omega), if_neg (by omega), if_pos (by omega), bitField_eq_of_toNat (x := cls) (by omega)]

theorem decode_reservedRcSym1 {sym : BitVec 9} (h : 0x11D ≤ sym.toNat) :
    decode .rcSym1 sym.toNat rest = .ok (.reservedRcSym1 sym) := by
  rw [decode_rcSym1 sym.isLt, if_neg (by omega), if_neg (by omega), bitField_zero_toNat]

theorem decode_rcDistClass {dc : BitVec 5} (h : dc.toNat ≤ 29) :
    decode .rcSym2 dc.toNat rest = .ok (.rcDistClass dc) := by
  rw [decode_rcSym2 dc.isLt, if_pos (by omega), bitField_zero_toNat]

theorem decode_reservedRcSym2 {sym : BitVec 5} (h : 30 ≤ sym.toNat) :
    decode .rcSym2 sym.toNat rest = .ok (.reservedRcSym2 sym) := by
  rw [decode_rcSym2 sym.isLt, if_neg (by omega), bitField_zero_toNat]

end Decode

/-- Settles O49: row by row, each field of the encoded value is read back where it was written. -/
theorem decodeInvertsEncode : Obligations.DecodeInvertsEncode := by
  intro i e more hwf he
  cases i with
  | cmdStart | illegalHint7 | htRunEqual | htRunSet | htDecode | lzLit | h8Bit0 | h8Bit1 | lzh8Disp0 =>
    cases he; rfl
  | tagPresent b0 b1 b2 b3 => cases he; exact decode_tagPresent b0 b1 b2 b3
  | dispatchLz10 len => cases he; exact decode_leHeader 0x10#8 len
  | dispatchLz11 len => cases he; exact decode_leHeader 0x11#8 len
  | dispatchHuf8 len => cases he; exact decode_leHeader 0x28#8 len
  | dispatchLzh8 len => cases he; exact decode_leHeader 0x40#8 len
  | illegalLeType type len =>
    cases he
    obtain ⟨h10, h11, h28, h40⟩ := knownLeType_eq_false (by simpa [Instr.wf] using hwf)
    refine (decode_leHeader type len).trans ?_
    rw [if_neg h10, if_neg h11, if_neg h28, if_neg h40]
  | dispatchN64lz len => cases he; exact decode_beHeader 1#2 len
  | dispatchRomchu len => cases he; exact decode_beHeader 2#2 len
  | illegalNtype0 len => cases he; exact decode_beHeader 0#2 len
  | illegalNtype3 len => cases he; exact decode_beHeader 3#2 len
  | lzFlags flag => cases he; exact decode_lzFlag8_toNat flag
  | lz10Ref lm3 dm1 => cases he; exact decode_lz10Ref lm3 dm1
  | lz11RefShort len1 dm1 => cases he; exact decode_lz11RefShort (by simpa [Instr.wf] using hwf) dm1
  | lz11RefLong len17 dm1 => cases he; exact decode_lz11RefLong len17 dm1
  | lz11RefMed len273 dm1 => cases he; exact decode_lz11RefMed len273 dm1
  | checkChild l0 l1 off => cases he; exact decode_checkChild l0 l1 off
  | lzh8Lit b => cases he; exact decode_lzh8Lit b
  | lzh8Ref len3 => cases he; exact decode_lzh8Ref len3
  | lzh8Dispn displen => cases he; exact decode_lzh8Dispn (by simpa [Instr.wf] using hwf)
  | rcBlkRaw n => cases he; exact decode_rcBlkRaw n
  | rcBlkComp n => cases he; exact decode_rcBlkComp n
  | rcLit b => cases he; exact decode_rcLit b
  | rcRef cls => cases he; exact decode_rcRef (by simpa [Instr.wf] using hwf)
  | reservedRcSym1 sym => cases he; exact decode_reservedRcSym1 (by simpa [Instr.wf] using hwf)
  | rcDistClass dc => cases he; exact decode_rcDistClass (by simpa [Instr.wf] using hwf)
  | reservedRcSym2 sym => cases he; exact decode_reservedRcSym2 (by simpa [Instr.wf] using hwf)
  | _ => cases he

theorem decodeHdrLe32_wf (v : Nat) : (decodeHdrLe32 v).wf = true := by
  unfold decodeHdrLe32
  dsimp only
  split_ifs with h10 h11 h28 h40
  · rfl
  · rfl
  · rfl
  · rfl
  · simp [Instr.wf, knownLeType, h10, h11, h28, h40]

theorem decodeHdrBe32_wf (v : Nat) : (decodeHdrBe32 v).wf = true := by
  unfold decodeHdrBe32
  dsimp only
  split_ifs <;> rfl

theorem decodeLz11_wf {info : Nat} {rest : List Byte} {i : Instr} (hinfo : info < 2 ^ 16)
    (h : decodeLz11 info rest = .ok i) : i.wf = true := by
  unfold decodeLz11 at h
  split at h
  · cases rest with
    | nil => cases h
    | cons b rest => cases h; rfl
  · split at h
    · match rest with
      | [] | [_] => cases h
      | _ :: _ :: _ => cases h; rfl
    · cases h
      simp only [Instr.wf, bitField, BitVec.toNat_ofNat, decide_eq_true_eq]
      omega

/-- A decoded value fits its context (rule R47). -/
theorem decode_lt {c : Context} {v : Nat} {rest : List Byte} {i : Instr} (h : decode c v rest = .ok i) :
    v < 2 ^ c.width := by
  unfold decode at h
  split at h
  · cases h
  · omega

/-- What the decoder answers is in the ranges of the encodings (rules R48 to R67). -/
theorem decode_wf {c : Context} {v : Nat} {rest : List Byte} {i : Instr} (h : decode c v rest = .ok i) :
    i.wf = true := by
  have hv := decode_lt h
  cases c with
  | hostCtrl | hostHint | htRun | h8Bit =>
    simp only [decode, if_neg (Nat.not_le.mpr hv)] at h
    split at h <;> cases h <;> rfl
  | prefix32 | lzFlag8 | lz10Tok16 | h8Node8 | htBit =>
    simp only [decode, if_neg (Nat.not_le.mpr hv)] at h
    cases h; rfl
  | lzFlagbit =>
    simp only [decode, if_neg (Nat.not_le.mpr hv)] at h
    split at h
    · cases rest with
      | nil => cases h
      | cons b rest => cases h; rfl
    · cases h
  | hdrLe32 =>
    rw [decode_hdrLe32 hv] at h
    cases h
    exact decodeHdrLe32_wf v
  | hdrBe32 =>
    rw [decode_hdrBe32 hv] at h
    cases h
    exact decodeHdrBe32_wf v
  | lz11Info16 =>
    rw [decode_lz11Info16 hv] at h
    exact decodeLz11_wf hv h
  | lzh8Sym1 =>
    rw [decode_lzh8Sym1 hv] at h
    split at h <;> cases h <;> rfl
  | rcBlkhdr32 =>
    rw [decode_rcBlkhdr32 hv] at h
    split at h <;> cases h <;> rfl
  | lzh8Sym2 =>
    rw [decode_lzh8Sym2 hv] at h
    simp only [Context.width] at hv
    split at h <;> cases h
    · rfl
    · simp only [Instr.wf, bitField, BitVec.toNat_ofNat, decide_eq_true_eq]
      omega
  | rcSym1 =>
    rw [decode_rcSym1 hv] at h
    simp only [Context.width] at hv
    split_ifs at h <;> cases h
    · rfl
    · simp only [Instr.wf, bitField, BitVec.toNat_ofNat, decide_eq_true_eq]
      omega
    · simp only [Instr.wf, bitField, BitVec.toNat_ofNat, decide_eq_true_eq]
      omega
  | rcSym2 =>
    rw [decode_rcSym2 hv] at h
    simp only [Context.width] at hv
    split at h <;> cases h <;>
    · simp only [Instr.wf, bitField, BitVec.toNat_ofNat, decide_eq_true_eq]
      omega

/-- Settles O50: context by context, the ranges are those the decoder tests or the fields' widths give. -/
theorem decodedOperationsAreWellFormed : Obligations.DecodedOperationsAreWellFormed :=
  fun _ _ _ _ h => ⟨decode_wf h, decode_lt h⟩

/-- Settles O51: the decoder evaluated on the ten words. -/
theorem wordsOfTheSpecDecode : Obligations.WordsOfTheSpecDecode := by
  refine ⟨?_, ?_, ?_, ?_, ?_, ?_, ?_, ?_, ?_, ?_⟩ <;> rfl

end Sys2Proof

namespace Sys2Proof.Machine

/-! ## The header and DISPATCH (46_dispatcher.md) -/

section Header
variable {s : State}

/-- The header's address is 4 or 0, by the conditions of rule R127 on the bytes of IN. -/
theorem State.headerAt_eq_ite (s : State) :
    s.headerAt = if s.TagConditions (s.inByte 0) (s.inByte 1) (s.inByte 2) (s.inByte 3) then 4 else 0 := by
  split
  · next h => exact State.headerAt_eq_four.mpr h
  · next h =>
    have hne : s.headerAt ≠ 4 := fun h4 => h (State.headerAt_eq_four.mp h4)
    unfold State.headerAt at hne ⊢
    exact if_neg fun hc => hne (if_pos hc)

/-- DISPATCH finds the header where the tag conditions put it (rules R126, R127). -/
theorem headerAddress_of_covered (hc : s.inCovered) : headerAddress s = .ok s.headerAt s := by
  cases hadmitted : s.tagAdmitted with
  | false =>
    have hnot : ¬ s.TagConditions (s.inByte 0) (s.inByte 1) (s.inByte 2) (s.inByte 3) := fun ⟨hhint, hlen, _⟩ => by
      simp [State.tagAdmitted_iff.mpr ⟨hhint, hlen⟩] at hadmitted
    rw [State.headerAt_eq_ite, if_neg hnot]
    simp [headerAddress, tagPresentOp, hadmitted]
  | true =>
    obtain ⟨_, hlen⟩ := State.tagAdmitted_iff.mp hadmitted
    have hread : memRead 0 5 s = .ok (s.inBytes 0 5) s := memRead_of_le hc (by omega)
    simp [headerAddress, tagPresentOp, hadmitted, hread, State.headerAt_eq_ite,
      State.tagConditions_iff_tagBytes hadmitted, State.inBytes]

/-! ### The end of DISPATCH: the length is recorded, then checked (rules R128, R129) -/

/-- The state in which the length is checked against OUT_CAPACITY: FORMAT and OUT_LEN hold what was parsed
(rule R128). -/
def State.recorded (s : State) (f : Format) (len next : Nat) : State := ((s.setDeclared len).setIp next).setFormat f

theorem dispatchCommit_of_fits {len : Nat} (hfits : s.outFits len) (f : Format) (next : Nat) :
    dispatchCommit f len next s = .ok () (s.dispatched f len next) := by
  have hcheck := capacityCheckOp_of_fits (s := s.recorded f len next) hfits
  rw [State.recorded] at hcheck
  simp only [dispatchCommit, Op.bind_apply, update_apply, hcheck, State.enter_eq_entered]
  rfl

theorem dispatchCommit_of_not_fits {len : Nat} (h : ¬ s.outFits len) (f : Format) (next : Nat) :
    dispatchCommit f len next s = .error (.error .lengthMismatch) (s.recorded f len next) := by
  have hcheck := capacityCheckOp_of_not_fits (s := s.recorded f len next) h
  rw [State.recorded] at hcheck
  simp only [dispatchCommit, Op.bind_apply, update_apply, hcheck, State.recorded]

/-- What the refusal leaves does not depend on the engine registers written before it (rule R136). -/
theorem State.raise_recorded (s : State) (f : Format) (len next : Nat) (e : ErrCode) :
    (s.recorded f len next).raise e =
      State.raise { s with outLen := BitVec.ofNat 32 len, status := { s.status with format := f.code } } e := rfl

/-! ### A header row: presence, hint, then the end of DISPATCH (rules R126, R130) -/

theorem dispatchLeOp_of_hint (hc : s.inCovered) (hin : s.headerAt + 4 ≤ s.inLen.toNat) {f : Format}
    (hhint : s.hint = 0 ∨ s.hint = f.code) (len : Nat) :
    dispatchLeOp f len s = dispatchCommit f len (s.headerAt + 4) s := by
  have hneg : ¬ (s.hint ≠ 0 ∧ s.hint ≠ f.code) := fun h => hhint.elim h.1 h.2
  simp only [dispatchLeOp, Op.bind_apply, headerAddress_of_covered hc, memRead_of_le hc hin, Op.get_apply, if_neg hneg]

theorem dispatchLeOp_of_other_hint (hc : s.inCovered) (hin : s.headerAt + 4 ≤ s.inLen.toNat) {f : Format}
    (hzero : s.hint ≠ 0) (hother : s.hint ≠ f.code) (len : Nat) :
    dispatchLeOp f len s = .error (.error .unsupportedFormat) s := by
  simp only [dispatchLeOp, Op.bind_apply, headerAddress_of_covered hc, memRead_of_le hc hin, Op.get_apply,
    if_pos (And.intro hzero hother), raised_apply]

theorem dispatchLeOp_of_cut (hc : s.inCovered) (hcut : s.inLen.toNat < s.headerAt + 4) (f : Format) (len : Nat) :
    dispatchLeOp f len s = .error (.error .truncatedInput) s := by
  simp only [dispatchLeOp, Op.bind_apply, headerAddress_of_covered hc, memRead_of_lt hcut]

theorem dispatchBeOp_of_hint (hc : s.inCovered) (hin : 4 ≤ s.inLen.toNat) {f : Format} (hhint : s.hint = f.code)
    (len : Nat) : dispatchBeOp f len s = dispatchCommit f len 4 s := by
  have hread : memRead 0 4 s = .ok (s.inBytes 0 4) s := memRead_of_le hc (by omega)
  simp only [dispatchBeOp, Op.bind_apply, hread, Op.get_apply, if_neg (not_not.mpr hhint)]

theorem dispatchBeOp_of_other_hint (hc : s.inCovered) (hin : 4 ≤ s.inLen.toNat) {f : Format}
    (hother : s.hint ≠ f.code) (len : Nat) : dispatchBeOp f len s = .error (.error .unsupportedFormat) s := by
  have hread : memRead 0 4 s = .ok (s.inBytes 0 4) s := memRead_of_le hc (by omega)
  simp only [dispatchBeOp, Op.bind_apply, hread, Op.get_apply, if_pos hother, raised_apply]

theorem dispatchBeOp_of_cut (hcut : s.inLen.toNat < 4) (f : Format) (len : Nat) :
    dispatchBeOp f len s = .error (.error .truncatedInput) s := by
  have hread : memRead 0 4 s = .error (.error .truncatedInput) s := memRead_of_lt (by omega)
  simp only [dispatchBeOp, Op.bind_apply, hread]

end Header

/-- The row of an LE header runs `dispatchLeOp` on its format and length. -/
theorem exec_leRow {i : Instr} {f : Format} {len : BitVec 24}
    (h : (i, f) ∈ ([(.dispatchLz10 len, .lz10), (.dispatchLz11 len, .lz11), (.dispatchHuf8 len, .huf8),
      (.dispatchLzh8 len, .lzh8)] : List (Instr × Format))) (s : State) :
    exec i s = runOp (dispatchLeOp f len.toNat) s := by
  simp only [List.mem_cons, Prod.mk.injEq, List.not_mem_nil, or_false] at h
  rcases h with ⟨rfl, rfl⟩ | ⟨rfl, rfl⟩ | ⟨rfl, rfl⟩ | ⟨rfl, rfl⟩ <;> rfl

/-- The row of an N64 header runs `dispatchBeOp` on its format and length. -/
theorem exec_beRow {i : Instr} {f : Format} {len : BitVec 30}
    (h : (i, f) ∈ ([(.dispatchN64lz len, .n64lz), (.dispatchRomchu len, .romchu)] : List (Instr × Format)))
    (s : State) : exec i s = runOp (dispatchBeOp f len.toNat) s := by
  simp only [List.mem_cons, Prod.mk.injEq, List.not_mem_nil, or_false] at h
  rcases h with ⟨rfl, rfl⟩ | ⟨rfl, rfl⟩ <;> rfl

/-- Settles O11: each clause is one branch of a header row. -/
theorem headerRowsDispatch : Obligations.HeaderRowsDispatch := by
  intro i f len24 len30 s hc
  refine ⟨fun hrow => ?leRow, fun hrow => ?beRow⟩
  case leRow =>
    rw [exec_leRow hrow]
    refine ⟨fun hin hhint hfits => runOp_of_ok ?_, fun hin hzero hother => runOp_of_error ?_,
      fun hcut => runOp_of_error (dispatchLeOp_of_cut hc hcut f _)⟩
    · rw [dispatchLeOp_of_hint hc hin hhint, dispatchCommit_of_fits hfits]
    · exact dispatchLeOp_of_other_hint hc hin hzero hother _
  case beRow =>
    rw [exec_beRow hrow]
    refine ⟨fun hin hhint hfits => runOp_of_ok ?_, fun hin hother => runOp_of_error ?_,
      fun hcut => runOp_of_error (dispatchBeOp_of_cut hcut f _)⟩
    · rw [dispatchBeOp_of_hint hc hin hhint, dispatchCommit_of_fits hfits]
    · exact dispatchBeOp_of_other_hint hc hin hother _

section Reserved
variable {s : State}

/-! ### Headers that name no format (rules R67, R126) -/

theorem exec_illegalLeType_of_le (hc : s.inCovered) (h : s.headerAt + 4 ≤ s.inLen.toNat) (type : Byte)
    (len : BitVec 24) : exec (.illegalLeType type len) s = .next (s.raise .unsupportedFormat) :=
  runOp_of_error (by
    simp only [Op.bind_apply, headerAddress_of_covered hc, memRead_of_le hc h, raised_apply])

theorem exec_illegalLeType_of_cut (hc : s.inCovered) (h : s.inLen.toNat < s.headerAt + 4) (type : Byte)
    (len : BitVec 24) : exec (.illegalLeType type len) s = .next (s.raise .truncatedInput) :=
  runOp_of_error (by simp only [Op.bind_apply, headerAddress_of_covered hc, memRead_of_lt h])

theorem illegalNtypeOp_of_le (hc : s.inCovered) (h : 4 ≤ s.inLen.toNat) :
    illegalNtypeOp s = .error (.error .unsupportedFormat) s := by
  have hread : memRead 0 4 s = .ok (s.inBytes 0 4) s := memRead_of_le hc (by omega)
  simp only [illegalNtypeOp, Op.bind_apply, hread, raised_apply]

theorem illegalNtypeOp_of_cut (h : s.inLen.toNat < 4) : illegalNtypeOp s = .error (.error .truncatedInput) s := by
  have hread : memRead 0 4 s = .error (.error .truncatedInput) s := memRead_of_lt (by omega)
  simp only [illegalNtypeOp, Op.bind_apply, hread]

end Reserved

/-- Settles O12: the header is read before its type is refused. -/
theorem reservedHeadersRaise : Obligations.ReservedHeadersRaise := by
  intro type len24 len30 s hc
  refine ⟨fun hin => exec_illegalLeType_of_le hc hin type len24,
    fun hcut => exec_illegalLeType_of_cut hc hcut type len24, fun hin => ?present, fun hcut => ?missing⟩
  case present => exact ⟨runOp_of_error (illegalNtypeOp_of_le hc hin), runOp_of_error (illegalNtypeOp_of_le hc hin)⟩
  case missing => exact ⟨runOp_of_error (illegalNtypeOp_of_cut hcut), runOp_of_error (illegalNtypeOp_of_cut hcut)⟩

/-! ### DISPATCH on the header word (rules R126, R135) -/

/-- What DISPATCH does with an LE header word: the type chooses the row. -/
def dispatchLeWord (w : Nat) : Op Unit :=
  if w % 256 = 0x10 then dispatchLeOp .lz10 (w / 256)
  else if w % 256 = 0x11 then dispatchLeOp .lz11 (w / 256)
  else if w % 256 = 0x28 then dispatchLeOp .huf8 (w / 256)
  else if w % 256 = 0x40 then dispatchLeOp .lzh8 (w / 256)
  else raised .unsupportedFormat

/-- What DISPATCH does with an N64 header word. -/
def dispatchBeWord (w : Nat) : Op Unit :=
  if w % 4 = 1 then dispatchBeOp .n64lz (w / 4)
  else if w % 4 = 2 then dispatchBeOp .romchu (w / 4)
  else raised .unsupportedFormat

/-- The LE types and their formats (rule R48). -/
abbrev leFormats : List (Format × Nat) := [(.lz10, 0x10), (.lz11, 0x11), (.huf8, 0x28), (.lzh8, 0x40)]

/-- The N64 types and their formats (rule R49). -/
abbrev beFormats : List (Format × Nat) := [(.n64lz, 1), (.romchu, 2)]

theorem mem_leFormats {f : Format} {type : Nat} : (f, type) ∈ leFormats ↔
    f = .lz10 ∧ type = 0x10 ∨ f = .lz11 ∧ type = 0x11 ∨ f = .huf8 ∧ type = 0x28 ∨ f = .lzh8 ∧ type = 0x40 := by
  simp [leFormats]

theorem mem_beFormats {f : Format} {ntype : Nat} :
    (f, ntype) ∈ beFormats ↔ f = .n64lz ∧ ntype = 1 ∨ f = .romchu ∧ ntype = 2 := by
  simp [beFormats]

theorem dispatchLeWord_of_type {w len type : Nat} {f : Format} (h : (f, type) ∈ leFormats)
    (hw : w = len * 256 + type) : dispatchLeWord w = dispatchLeOp f len := by
  unfold dispatchLeWord
  rcases mem_leFormats.mp h with ⟨rfl, rfl⟩ | ⟨rfl, rfl⟩ | ⟨rfl, rfl⟩ | ⟨rfl, rfl⟩
  · rw [if_pos (by omega), show w / 256 = len by omega]
  · rw [if_neg (by omega), if_pos (by omega), show w / 256 = len by omega]
  · rw [if_neg (by omega), if_neg (by omega), if_pos (by omega), show w / 256 = len by omega]
  · rw [if_neg (by omega), if_neg (by omega), if_neg (by omega), if_pos (by omega), show w / 256 = len by omega]

theorem dispatchBeWord_of_type {w len ntype : Nat} {f : Format} (h : (f, ntype) ∈ beFormats)
    (hw : w = len * 4 + ntype) : dispatchBeWord w = dispatchBeOp f len := by
  unfold dispatchBeWord
  rcases mem_beFormats.mp h with ⟨rfl, rfl⟩ | ⟨rfl, rfl⟩
  · rw [if_pos (by omega), show w / 4 = len by omega]
  · rw [if_neg (by omega), if_pos (by omega), show w / 4 = len by omega]

/-- An LE word whose type is unknown, or not the one the hint names, raises UnsupportedFormat. -/
theorem dispatchLeWord_of_refused {s : State} (hc : s.inCovered) (hin : s.headerAt + 4 ≤ s.inLen.toNat) {w : Nat}
    (h : ∀ f type, (f, type) ∈ leFormats → w % 256 = type → s.hint ≠ 0 ∧ s.hint ≠ f.code) :
    dispatchLeWord w s = .error (.error .unsupportedFormat) s := by
  have hrow (f : Format) (type : Nat) (hmem : (f, type) ∈ leFormats) (hw : w % 256 = type) (len : Nat) :
      dispatchLeOp f len s = .error (.error .unsupportedFormat) s :=
    dispatchLeOp_of_other_hint hc hin (h f type hmem hw).1 (h f type hmem hw).2 len
  unfold dispatchLeWord
  split_ifs with h10 h11 h28 h40
  · exact hrow .lz10 _ (by simp) h10 _
  · exact hrow .lz11 _ (by simp) h11 _
  · exact hrow .huf8 _ (by simp) h28 _
  · exact hrow .lzh8 _ (by simp) h40 _
  · rfl

/-- An N64 word whose type is reserved, or not the one the hint names, raises UnsupportedFormat. -/
theorem dispatchBeWord_of_refused {s : State} (hc : s.inCovered) (hin : 4 ≤ s.inLen.toNat) {w : Nat}
    (h : ∀ f ntype, (f, ntype) ∈ beFormats → w % 4 = ntype → s.hint ≠ f.code) :
    dispatchBeWord w s = .error (.error .unsupportedFormat) s := by
  unfold dispatchBeWord
  split_ifs with h1 h2
  · exact dispatchBeOp_of_other_hint hc hin (h .n64lz 1 (by simp) h1) _
  · exact dispatchBeOp_of_other_hint hc hin (h .romchu 2 (by simp) h2) _
  · rfl

/-- The hints an LE header admits are neither 7 nor those of the N64 formats. -/
theorem le_hint_ne {hint : BitVec 3} {f : Format} {type : Nat} (hf : (f, type) ∈ leFormats)
    (h : hint = 0 ∨ hint = f.code) : hint ≠ 7 ∧ hint ≠ 3 ∧ hint ≠ 6 := by
  rcases mem_leFormats.mp hf with ⟨rfl, -⟩ | ⟨rfl, -⟩ | ⟨rfl, -⟩ | ⟨rfl, -⟩ <;> rcases h with rfl | rfl <;> decide

/-- The N64 formats are hinted by 3 and 6. -/
theorem be_hint {hint : BitVec 3} {f : Format} {ntype : Nat} (hf : (f, ntype) ∈ beFormats) (h : hint = f.code) :
    hint = 3 ∨ hint = 6 := by
  rcases mem_beFormats.mp hf with ⟨rfl, -⟩ | ⟨rfl, -⟩
  · exact .inl h
  · exact .inr h

section Dispatch
variable {s : State}

theorem dispatchOp_of_hint7 (h : s.hint = 7) : dispatchOp s = .error (.error .unsupportedFormat) s := by
  simp only [dispatchOp, Op.bind_apply, Op.get_apply, if_pos h, raised_apply]

theorem dispatchOp_of_be_hint (h : s.hint = 3 ∨ s.hint = 6) :
    dispatchOp s = (be32 0 >>= dispatchBeWord) s := by
  have h7 : s.hint ≠ 7 := by rcases h with h | h <;> rw [h] <;> decide
  simp only [dispatchOp, Op.bind_apply, Op.get_apply, if_neg h7, if_pos h]
  rfl

theorem dispatchOp_of_le_hint (h7 : s.hint ≠ 7) (h3 : s.hint ≠ 3) (h6 : s.hint ≠ 6) :
    dispatchOp s = (headerAddress >>= fun h => le32 h >>= dispatchLeWord) s := by
  simp only [dispatchOp, Op.bind_apply, Op.get_apply, if_neg h7, if_neg (not_or.mpr ⟨h3, h6⟩)]
  rfl

/-- With an N64 hint and a header present, DISPATCH goes by its word. -/
theorem dispatchOp_be (hc : s.inCovered) (h : s.hint = 3 ∨ s.hint = 6) (hin : 4 ≤ s.inLen.toNat) :
    dispatchOp s = dispatchBeWord (beValue (s.inBytes 0 4)) s := by
  have hread : memRead 0 4 s = .ok (s.inBytes 0 4) s := memRead_of_le hc (by omega)
  simp only [dispatchOp_of_be_hint h, be32, Op.bind_apply, hread, Op.pure_apply]

theorem dispatchOp_be_of_cut (h : s.hint = 3 ∨ s.hint = 6) (hcut : s.inLen.toNat < 4) :
    dispatchOp s = .error (.error .truncatedInput) s := by
  have hread : memRead 0 4 s = .error (.error .truncatedInput) s := memRead_of_lt (by omega)
  simp only [dispatchOp_of_be_hint h, be32, Op.bind_apply, hread]

/-- With any other hint but 7 and a header present, DISPATCH goes by the LE word behind the tag. -/
theorem dispatchOp_le (hc : s.inCovered) (h7 : s.hint ≠ 7) (h3 : s.hint ≠ 3) (h6 : s.hint ≠ 6)
    (hin : s.headerAt + 4 ≤ s.inLen.toNat) :
    dispatchOp s = dispatchLeWord (leValue (s.inBytes s.headerAt 4)) s := by
  simp only [dispatchOp_of_le_hint h7 h3 h6, le32, Op.bind_apply, headerAddress_of_covered hc, memRead_of_le hc hin,
    Op.pure_apply]

theorem dispatchOp_le_of_cut (hc : s.inCovered) (h7 : s.hint ≠ 7) (h3 : s.hint ≠ 3) (h6 : s.hint ≠ 6)
    (hcut : s.inLen.toNat < s.headerAt + 4) : dispatchOp s = .error (.error .truncatedInput) s := by
  simp only [dispatchOp_of_le_hint h7 h3 h6, le32, Op.bind_apply, headerAddress_of_covered hc, memRead_of_lt hcut]

/-- DISPATCH on a supported LE header goes on to record its format and length. -/
theorem dispatchOp_le_supported (hc : s.inCovered) {f : Format} {type len : Nat} (hf : (f, type) ∈ leFormats)
    (hhint : s.hint = 0 ∨ s.hint = f.code) (hin : s.headerAt + 4 ≤ s.inLen.toNat)
    (hw : leValue (s.inBytes s.headerAt 4) = len * 256 + type) :
    dispatchOp s = dispatchCommit f len (s.headerAt + 4) s := by
  obtain ⟨h7, h3, h6⟩ := le_hint_ne hf hhint
  rw [dispatchOp_le hc h7 h3 h6 hin, dispatchLeWord_of_type hf hw, dispatchLeOp_of_hint hc hin hhint]

/-- DISPATCH on a supported N64 header goes on to record its format and length. -/
theorem dispatchOp_be_supported (hc : s.inCovered) {f : Format} {ntype len : Nat} (hf : (f, ntype) ∈ beFormats)
    (hhint : s.hint = f.code) (hin : 4 ≤ s.inLen.toNat) (hw : beValue (s.inBytes 0 4) = len * 4 + ntype) :
    dispatchOp s = dispatchCommit f len 4 s := by
  rw [dispatchOp_be hc (be_hint hf hhint) hin, dispatchBeWord_of_type hf hw, dispatchBeOp_of_hint hc hin hhint]

end Dispatch

/-- Settles O13: the header word names the row, and the row's length fits. -/
theorem dispatchChoosesTheFormat : Obligations.DispatchChoosesTheFormat := by
  intro s len hc hfits
  refine ⟨fun f type hf hhint hin hw => ?le, fun f ntype hf hhint hin hw => ?be⟩
  case le =>
    exact runOp_of_ok ((dispatchOp_le_supported hc hf hhint hin hw).trans (dispatchCommit_of_fits hfits f _))
  case be =>
    exact runOp_of_ok ((dispatchOp_be_supported hc hf hhint hin hw).trans (dispatchCommit_of_fits hfits f _))

/-- Settles O14: each clause is one branch of DISPATCH, the capacity check last. -/
theorem dispatchRaisesInOrder : Obligations.DispatchRaisesInOrder := by
  intro s hc
  refine ⟨fun h7 => ?hint7, fun hbe hcut => ?beCut, fun h7 h3 h6 hcut => ?leCut, fun h7 h3 h6 hin hno => ?leRefused,
    fun hbe hin hno => ?beRefused, fun len c hcap hlt => ?capacity⟩
  case hint7 => exact runOp_of_error (dispatchOp_of_hint7 h7)
  case beCut => exact runOp_of_error (dispatchOp_be_of_cut hbe hcut)
  case leCut => exact runOp_of_error (dispatchOp_le_of_cut hc h7 h3 h6 hcut)
  case leRefused =>
    exact runOp_of_error ((dispatchOp_le hc h7 h3 h6 hin).trans (dispatchLeWord_of_refused hc hin hno))
  case beRefused => exact runOp_of_error ((dispatchOp_be hc hbe hin).trans (dispatchBeWord_of_refused hc hin hno))
  case capacity =>
    have hnot : ¬ s.outFits len := fun hfits => Nat.not_lt.mpr (hfits c hcap) hlt
    refine ⟨fun f type hf hhint hin hw => ?_, fun f ntype hf hhint hin hw => ?_⟩
    · rw [← State.raise_recorded s f len (s.headerAt + 4)]
      exact runOp_of_error ((dispatchOp_le_supported hc hf hhint hin hw).trans (dispatchCommit_of_not_fits hnot f _))
    · rw [← State.raise_recorded s f len 4]
      exact runOp_of_error ((dispatchOp_be_supported hc hf hhint hin hw).trans (dispatchCommit_of_not_fits hnot f _))

end Sys2Proof.Machine

namespace Sys2Proof.Machine

/-! ## The host's turns (10_state.md section 2, 70_reset_and_hazards.md section 1) -/

/-- A host turn that waits comes first, and the turns after it stay. -/
theorem step_of_host_cons {s : State} {act : HostAct} {rest : List HostAct} (h : s.host = act :: rest) :
    step s = hostTurn act { s with host := rest } := by
  unfold step turn
  rw [h]

/-! ### Writes (rules R14 to R17) -/

section Write
variable {s : State} {r : HostReg} {v : Word32} {rest : List HostAct}

theorem step_write_of_busy (h : s.host = .writeReg r v :: rest) (hbusy : s.status.busy = true) :
    step s = .next { s with host := rest } := by
  rw [step_of_host_cons h]
  exact if_pos hbusy

theorem step_write_of_idle (h : s.host = .writeReg r v :: rest) (hidle : s.status.busy = false) :
    step s = writeIdle r v { s with host := rest } := by
  rw [step_of_host_cons h]
  exact if_neg (by simp [hidle])

/-- CTRL's bit 0 is the parity of the word written (rule R15). -/
theorem getLsbD_zero_iff (v : Word32) : v.getLsbD 0 = true ↔ v.toNat % 2 = 1 := by
  rw [← BitVec.testBit_toNat, Nat.testBit_zero, decide_eq_true_eq]

theorem decode_hostCtrl (v : Word32) : decode .hostCtrl v.toNat [] =
    if v.getLsbD 0 = true then .ok .cmdStart else .error .noCommand := by
  have hfits : ¬ 2 ^ Context.hostCtrl.width ≤ v.toNat := Nat.not_le.mpr v.isLt
  simp only [decode, if_neg hfits, getLsbD_zero_iff]

theorem writeIdle_ctrl (s : State) (v : Word32) :
    writeIdle .ctrl v s = if v.getLsbD 0 = true then exec .cmdStart s else .next s := by
  unfold writeIdle
  rw [decode_hostCtrl]
  split_ifs <;> rfl

end Write

/-- Settles O2: register by register, after BUSY has been looked at. -/
theorem hostWritesFollowTheRegisterMap : Obligations.HostWritesFollowTheRegisterMap := by
  intro s r v rest hhost
  refine ⟨fun hctrl hidle hstart => ?start, fun hno => ?noStart⟩
  case start =>
    subst hctrl
    rw [step_write_of_idle hhost hidle, writeIdle_ctrl, if_pos hstart]
  case noStart =>
    cases hbusy : s.status.busy with
    | true =>
      rw [step_write_of_busy hhost hbusy]
      simp
    | false =>
      rw [step_write_of_idle hhost hbusy]
      cases r with
      | ctrl =>
        have hbit : v.getLsbD 0 = false := by simpa [hbusy] using hno
        rw [writeIdle_ctrl, if_neg (Bool.eq_false_iff.mp hbit)]
        simp
      | tagHint => simp [writeIdle, BitVec.setWidth_eq_extractLsb']
      | inLen => simp [writeIdle]
      | status => simp [writeIdle]
      | outLen => simp [writeIdle]

/-! ### Reads (rules R14, R18) -/

/-- STATUS as a number: its fields side by side, within nine bits. -/
theorem Status.toNat_word (st : Status) : st.word.toNat =
    st.busy.toNat + st.done.toNat * 2 + st.err.toNat * 4 + st.outValid.toNat * 32 + st.format.toNat * 64 := by
  have hbusy := st.busy.toNat_lt
  have hdone := st.done.toNat_lt
  have hvalid := st.outValid.toNat_lt
  rw [Status.word, BitVec.toNat_ofNat, Nat.mod_eq_of_lt (by omega)]

/-- A bit of a word, from its value. -/
theorem getLsbD_eq_of_div {w k : Nat} {x : BitVec w} {b : Bool} (h : x.toNat / 2 ^ k % 2 = b.toNat) :
    x.getLsbD k = b := by
  rw [← BitVec.testBit_toNat, Nat.testBit_eq_decide_div_mod_eq, h]
  cases b <;> rfl

/-- A field of a word, from its value. -/
theorem extractLsb'_eq_of_div {w lo n : Nat} {x : BitVec w} {y : BitVec n} (h : x.toNat / 2 ^ lo % 2 ^ n = y.toNat) :
    x.extractLsb' lo n = y :=
  BitVec.eq_of_toNat_eq (by rw [BitVec.extractLsb'_toNat, Nat.shiftRight_eq_div_pow, h])

/-- STATUS's word holds each field at its place and 0 above them (rule R18). -/
theorem Status.word_fields (st : Status) :
    st.word.getLsbD 0 = st.busy ∧ st.word.getLsbD 1 = st.done ∧ st.word.extractLsb' 2 3 = st.err ∧
      st.word.getLsbD 5 = st.outValid ∧ st.word.extractLsb' 6 3 = st.format ∧ st.word.extractLsb' 9 23 = 0 := by
  have hword := st.toNat_word
  have hbusy := st.busy.toNat_lt
  have hdone := st.done.toNat_lt
  have hvalid := st.outValid.toNat_lt
  refine ⟨getLsbD_eq_of_div ?_, getLsbD_eq_of_div ?_, extractLsb'_eq_of_div ?_, getLsbD_eq_of_div ?_,
    extractLsb'_eq_of_div ?_, extractLsb'_eq_of_div (show _ = 0 from ?_)⟩ <;> omega

theorem step_read {s : State} {r : HostReg} {rest : List HostAct} (h : s.host = .readReg r :: rest) :
    step s = .next { s with host := rest, hostData := s.readReg r } := by
  rw [step_of_host_cons h]
  cases r <;> rfl

/-- Settles O3: register by register, the word `readReg` answers. -/
theorem hostReadsTheRegisterMap : Obligations.HostReadsTheRegisterMap := by
  intro s r rest hhost
  refine ⟨s.readReg r, step_read hhost, ?_⟩
  cases r with
  | ctrl => simp [State.readReg]
  | tagHint =>
    have hword : (s.readReg .tagHint).toNat = s.hint.toNat % 2 ^ 32 := BitVec.toNat_setWidth ..
    refine ⟨nofun, fun _ => ⟨extractLsb'_eq_of_div ?_, extractLsb'_eq_of_div (show _ = 0 from ?_)⟩, nofun, nofun,
      nofun⟩ <;> omega
  | inLen => simp [State.readReg]
  | status => exact ⟨nofun, nofun, nofun, fun _ => s.status.word_fields, nofun⟩
  | outLen => simp [State.readReg]

/-! ### The memories (rules R33, R34, R144) -/

/-- A byte loaded into IN is read back, and no other byte changes. -/
theorem State.inByte_load (s : State) (a : Nat) (b : Byte) (a' : Nat) :
    State.inByte { s with inMem := Memory.write a b s.inMem } a' = if a' = a then b else s.inByte a' := by
  split
  · next h => simp [State.inByte, h]
  · next h => simp [State.inByte, Memory.read_write_other b s.inMem h]

/-- A finite capacity above an address holds it. -/
theorem any_capacity_le_eq_false {cap : Option Nat} {a : Nat} (h : ∀ c ∈ cap, a < c) :
    (cap.any fun c => decide (c ≤ a)) = false := by
  cases cap with
  | none => rfl
  | some c => simpa using h c rfl

theorem step_load_of_idle {s : State} {a : Nat} {b : Byte} {rest : List HostAct} (h : s.host = .loadIn a b :: rest)
    (hidle : s.status.busy = false) (hcap : ∀ c ∈ s.cfg.inCapacity, a < c) :
    step s = .next { s with host := rest, inMem := Memory.write a b s.inMem } := by
  rw [step_of_host_cons h]
  simp [hostTurn, loadByte, hidle, any_capacity_le_eq_false hcap]

/-- Settles O4: the load by BUSY, and the read of a byte that exists. -/
theorem hostLoadsInAndReadsOut : Obligations.HostLoadsInAndReadsOut := by
  intro s a b rest
  refine ⟨fun hhost hidle hcap => ?loaded, fun hhost hbusy => ?refused, fun hhost hcap => ?read⟩
  case loaded => exact ⟨_, step_load_of_idle hhost hidle hcap, rfl, s.inByte_load a b⟩
  case refused =>
    rw [step_of_host_cons hhost]
    exact if_pos hbusy
  case read =>
    rw [step_of_host_cons hhost]
    exact if_neg (by simp [any_capacity_le_eq_false hcap])

/-! ### Power-on reset (rules R32, R143) -/

theorem step_powerOnReset {s : State} {rest : List HostAct} (h : s.host = .powerOnReset :: rest) :
    step s = .next (State.powerOnReset { s with host := rest }) := step_of_host_cons h

/-- Settles O5: `State.reset` and the host's reset, field by field. -/
theorem resetLeavesTheStatedValues : Obligations.ResetLeavesTheStatedValues := by
  refine ⟨⟨rfl, rfl, rfl, rfl, rfl, rfl, rfl, rfl, rfl, rfl, rfl⟩, fun s rest hhost => ?_⟩
  exact ⟨_, step_powerOnReset hhost, rfl, rfl, rfl, rfl, rfl, rfl, rfl, rfl, rfl, rfl, rfl⟩

/-- A state that reset makes meets the invariant: nothing is loaded and no call has run. -/
theorem State.inv_of_idle {s : State} (hin : s.inMem = []) (hout : s.outMem = []) (hphase : s.phase = .idle)
    (hstatus : s.status = {}) : s.Inv where
  inWf := hin ▸ Memory.wf_nil
  outWf := hout ▸ Memory.wf_nil
  phaseOk := by
    unfold State.PhaseOk
    rw [hphase, hstatus]
    exact ⟨rfl, rfl, rfl, rfl⟩

/-- Settles O56. -/
theorem invariantHoldsAtReset : Obligations.InvariantHoldsAtReset := State.inv_of_idle rfl rfl rfl rfl

/-! ## Errors and completion (60_exceptions.md, 46_dispatcher.md section 3) -/

theorem exec_raise (e : ErrCode) (s : State) : exec (.raise e) s = .next (s.raise e) := rfl

theorem exec_illegalHint7 (s : State) : exec .illegalHint7 s = .next (s.raise .unsupportedFormat) := rfl

theorem exec_complete (s : State) : exec .complete s = .next s.complete := rfl

/-- Settles O6: `State.raise` writes STATUS, the phase and the count, and frees the engine registers. -/
theorem raiseEndsTheCallWithItsCode : Obligations.RaiseEndsTheCallWithItsCode := by
  intro e s
  refine ⟨s.raise e, exec_raise e s, ?_, fun he => he ▸ exec_illegalHint7 s, rfl⟩
  cases e <;> rfl

/-- With no host turn and no call, the engine waits (rule R21). -/
theorem step_of_waiting {s : State} (hhost : s.host = []) (h : s.phase = .done ∨ s.phase = .idle) :
    step s = .next s := by
  have hwait : fetch s = .wait := by rcases h with h | h <;> simp [fetch, h]
  rw [step_of_host_nil hhost, engineTurn, hwait]

/-- Settles O7. -/
theorem completionReportsSuccessAndWaits : Obligations.CompletionReportsSuccessAndWaits :=
  fun s => ⟨exec_complete s, fun hhost h => step_of_waiting hhost h⟩

/-- Settles O47: both rows are faults by definition. -/
theorem reservedSymbolsStop : Obligations.ReservedSymbolsStop := fun _ _ _ => ⟨rfl, rfl⟩

end Sys2Proof.Machine

namespace Sys2Proof.Machine

/-! ## Sub-operations of the reader (40_bit_reader.md) -/

theorem exec_brInit (lo hi : Nat) (limit : Option Nat) (s : State) :
    exec (.brInit lo hi limit) s = .next (s.setReader (BitReader.init lo hi limit)) := rfl

/-- A reader over bytes of IN whose limit they hold fits its rules, and has delivered nothing (rule R69). -/
theorem State.readerOk_init {s : State} {lo hi limit : Nat} (hlo : lo ≤ hi) (hhi : hi ≤ s.inLen.toNat)
    (hlimit : limit ≤ (hi - lo) * 8) : s.ReaderOk (BitReader.init lo hi (some limit)) where
  start := Nat.le_refl lo
  stop := hlo
  inside := hhi
  bounded := hlimit
  delivered := by simp [BitReader.pos, BitReader.init]
  width := Nat.zero_le 8
  loaded h := absurd rfl h

@[simp] theorem BitReader.pos_init (lo hi : Nat) (limit : Option Nat) : (BitReader.init lo hi limit).pos = 0 := by
  simp [BitReader.pos, BitReader.init]

/-- An omitted limit is all the bits of the reader's bytes (rule R69). -/
theorem BitReader.init_none (lo hi : Nat) : BitReader.init lo hi none = BitReader.init lo hi (some ((hi - lo) * 8)) :=
  rfl

/-- Settles O15: both limits, the given one and the omitted one. -/
theorem brInitCreatesAReader : Obligations.BrInitCreatesAReader := by
  intro lo hi limit s
  refine ⟨_, exec_brInit lo hi limit s, rfl, fun hlo hhi hlimit => ⟨?_, BitReader.pos_init lo hi limit⟩⟩
  cases limit with
  | none => exact State.readerOk_init hlo hhi (Nat.le_refl _)
  | some n => exact State.readerOk_init hlo hhi hlimit

section Stream
variable {s : State} {r : BitReader} {n : Nat}

/-- A sub-operation that takes bits and answers, run by itself. -/
theorem State.Takes.runValue {op : Op Nat} {a : Nat} (hr : s.br = some r) (h : s.Takes r op n a) :
    ∃ r', s.ReaderOk r' ∧ r.Moved r' n ∧ Machine.runValue op s = .next { s with br := some r', ret := a } := by
  obtain ⟨r', hop, hok, hmoved⟩ := h
  rw [State.setReader_self hr] at hop
  exact ⟨r', hok, hmoved, runValue_of_ok hop⟩

/-- An error that moved the reader alone is taken as if it had not (rule R136). -/
theorem State.Raises.runOp_setReader {op : Op Unit} {e : ErrCode} (h : s.Raises r op e) :
    Machine.runOp op (s.setReader r) = .next (s.raise e) := by
  obtain ⟨r', hop⟩ := h
  exact runOp_of_error (t := s.setReader r') hop

theorem State.Raises.runOp {op : Op Unit} {e : ErrCode} (hr : s.br = some r) (h : s.Raises r op e) :
    Machine.runOp op s = .next (s.raise e) := by
  have hrun := h.runOp_setReader
  rwa [State.setReader_self hr] at hrun

end Stream

/-- Settles O16: the rule of readBits gives its answer and its error. -/
theorem readBitsDeliversTheStream : Obligations.ReadBitsDeliversTheStream := by
  intro s n
  refine ⟨fun r hc hr hok => ⟨fun hfits => ?_, fun hcut => ?_⟩, rfl⟩
  · exact ((readBits_reads hc hok).takes hfits).runValue hr
  · exact ((readBits_reads hc hok).raises hcut).runValue hr

/-! ## LZ back-references (rules R94 to R99) -/

section LzRef
variable {s : State} {n length distance : Nat}

/-- Missing token bytes are noticed before the cursor moves (rules R9, R33). -/
theorem takeBytes_of_lt (h : s.inLen.toNat < s.ip + n) : takeBytes n s = .error (.error .truncatedInput) s := by
  simp [takeBytes, memRead_of_lt h]

theorem lzRefOp_of_cut (h : s.inLen.toNat < s.ip + n) :
    lzRefOp n length distance s = .error (.error .truncatedInput) s := by
  simp [lzRefOp, takeBytes_of_lt h]

/-- With its bytes present, a back-reference is a copy behind them, then LZ_NEXT. -/
theorem lzRefOp_of_le (hc : s.inCovered) (h : s.ip + n ≤ s.inLen.toNat) :
    lzRefOp n length distance s =
      (copyOp length distance >>= fun _ => update State.lzNext) (s.setIp (s.ip + n)) := by
  simp only [lzRefOp, Op.bind_apply, takeBytes_of_le hc h]

/-- What an error leaves does not depend on the cursor it finds (rule R136). -/
@[simp] theorem State.raise_setIp (s : State) (a : Nat) (e : ErrCode) : (s.setIp a).raise e = s.raise e := rfl

/-- The state a back-reference leaves is the one its rules describe. -/
theorem State.lzNext_copyBytes (s : State) (n length distance : Nat) :
    (State.copyBytes length distance (s.setIp (s.ip + n))).lzNext =
      s.lzStepped n length (State.copyBytes length distance (s.setIp (s.ip + n))).lzNext.outMem := by
  rw [State.lzNext_eq, State.copyBytes_frame]
  rfl

/-- A back-reference of `n` bytes, in the order of its checks. -/
theorem lzRefEffect_of_exec {i : Instr} (hd : 1 ≤ distance)
    (hexec : ∀ s, exec i s = runOp (lzRefOp n length distance) s) : LzRefEffect i n length distance := by
  intro s hc
  rw [hexec]
  refine ⟨fun hcut => runOp_of_error (lzRefOp_of_cut hcut), fun hin hbad => ?badDistance,
    fun hin hle hlong => ?long, fun hin hle hfits => ?copied⟩
  case badDistance =>
    have hcopy := copyOp_of_badDistance (s := s.setIp (s.ip + n)) (length := length) (.inr hbad)
    exact runOp_of_error (t := s.setIp (s.ip + n)) (by rw [lzRefOp_of_le hc hin, Op.bind_apply, hcopy])
  case long =>
    have hcopy := copyOp_of_long (s := s.setIp (s.ip + n)) hd hle hlong
    exact runOp_of_error (t := s.setIp (s.ip + n)) (by rw [lzRefOp_of_le hc hin, Op.bind_apply, hcopy])
  case copied =>
    have hcopy := copyOp_of_fits (s := s.setIp (s.ip + n)) hd hle hfits
    refine ⟨_, runOp_of_ok (by rw [lzRefOp_of_le hc hin, Op.bind_apply, hcopy]; rfl),
      State.lzNext_copyBytes s n length distance, fun a => ?_⟩
    rw [State.outByte_lzNext]
    exact State.copyBytes_copies (s := s.setIp (s.ip + n)) hd hle length a

end LzRef

/-- Settles O28: the four tokens are one rule with their byte counts, lengths and distances (rule R66). -/
theorem backReferencesCopy : Obligations.BackReferencesCopy := by
  refine ⟨fun lm3 dm1 => ?_, fun len1 dm1 => ?_, fun len17 dm1 => ?_, fun len273 dm1 => ?_⟩
  all_goals exact lzRefEffect_of_exec (Nat.le_add_left ..) fun _ => rfl

theorem exec_lzNext (s : State) : exec .lzNext s = .next s.lzNext := rfl

/-- Settles O29: LZ_NEXT's phase and STATUS, read off for each case. -/
theorem lzNextChoosesThePhase : Obligations.LzNextChoosesThePhase := by
  intro s
  rw [exec_lzNext, State.lzNext_eq]
  refine ⟨fun hend => ?complete, fun hopen hlast => ?flag, fun hopen hmore => ?token⟩
  case complete => simp [lzPhase, Status.closedIf, hend]
  case flag => simp [lzPhase, Status.closedIf, hopen, hlast]
  case token => simp [lzPhase, Status.closedIf, hopen, hmore]

/-! ## Sub-operations of the Huf8 walk (43_huf8.md) -/

section Pool
variable {s : State}

theorem exec_h8Poolbit_of_ready (hc : s.inCovered) (h : s.poolReady) : exec .h8Poolbit s =
    .next { s with h8 := s.pooled, ret := (s.pooled.pw.getLsbD s.pooled.pbits).toNat } := by
  have hop : (do return (← poolBit).toNat : Op Nat) s =
      .ok (s.pooled.pw.getLsbD s.pooled.pbits).toNat (s.setH8 s.pooled) := by simp [poolBit_of_ready hc h]
  exact runValue_of_ok hop

theorem exec_h8Poolbit_of_not_ready (h : ¬ s.poolReady) : exec .h8Poolbit s = .next (s.raise .truncatedInput) :=
  runValue_of_error (by simp [poolBit_of_not_ready h])

/-- Bit 31 of a little-endian word is bit 7 of its last byte (rule R38). -/
theorem getLsbD_leValue_31 (b0 b1 b2 b3 : Byte) :
    (BitVec.ofNat 32 (leValue [b0, b1, b2, b3])).getLsbD 31 = b3.getLsbD 7 := by
  refine getLsbD_eq_of_div ?_
  rw [← BitVec.testBit_toNat, Nat.toNat_testBit, BitVec.toNat_ofNat]
  simp only [leValue]
  omega

end Pool

/-- Settles O31: the pool bit by whether it can be delivered, and bit 31 of a fresh word. -/
theorem poolBitsComeFromWholeWords : Obligations.PoolBitsComeFromWholeWords := by
  intro s hc
  refine ⟨exec_h8Poolbit_of_ready hc, fun h0 hword horder => ?fresh, exec_h8Poolbit_of_not_ready⟩
  have hpooled := State.pooled_of_empty h0
  rw [horder] at hpooled
  refine ⟨_, exec_h8Poolbit_of_ready hc (.inr hword), ?_⟩
  rw [hpooled]
  exact congrArg Bool.toNat (getLsbD_leValue_31 ..)

/-- Settles O33: EmitLeaf stores, and CheckChild looks at the range alone, because every edge leads forward. -/
theorem leavesAndChildChecks : Obligations.LeavesAndChildChecks := by
  refine ⟨fun child s hc hin hopen => ?leaf, fun l0 l1 off s child hchild => ?check⟩
  case leaf => exact ⟨_, runOp_of_ok (emitLeafOp_of_lt hc hin hopen), rfl, s.leafStepped_stores _ _⟩
  case check =>
    obtain rfl : child = childIndex s.h8.cur off s.lastPoolBit := hchild
    have hforward := lt_childIndex s.h8.cur off s.lastPoolBit
    exact ⟨fun hout => runOp_of_error (checkChildOp_of_outside hout),
      fun hin => runOp_of_ok (checkChildOp_of_inside hin hforward), hforward⟩

/-! ## LZH8_NEXT and RC_NEXT (rules R114, R124) -/

/-- LZH8_NEXT ends the call with its output, and goes on in the body otherwise. -/
theorem State.lzh8Next_eq (s : State) : s.lzh8Next =
    { s with
      phase := if s.oc = s.declared then .done else .lzh8Body
      status := s.status.closedIf (s.oc = s.declared) } := by
  unfold State.lzh8Next
  by_cases hend : s.oc = s.declared
  · simp [hend, State.complete, Status.closedIf, Status.succeeded]
  · simp [hend, Status.closedIf, State.setPhase]

/-- RC_NEXT goes on in the block while its reader has bits left; at the block's end it ends the call with its output, or
goes to the next block. -/
theorem rcNextOp_of_some {s : State} {r : BitReader} (hr : s.br = some r) : rcNextOp s = .ok ()
    { s with
      ip := if r.pos < r.limit then s.ip else s.rc.next
      phase := if r.pos < r.limit then .rcBody else if s.oc = s.declared then .done else .rcBlock
      status := s.status.closedIf (¬ r.pos < r.limit ∧ s.oc = s.declared) } := by
  simp only [rcNextOp, Op.bind_apply, reader_of_some hr, update_apply]
  by_cases hmore : r.pos < r.limit
  · simp [hmore, Status.closedIf, State.setPhase]
  · by_cases hend : s.oc = s.declared
    · simp [hmore, hend, State.complete, Status.closedIf, Status.succeeded, State.setIp]
    · simp [hmore, hend, Status.closedIf, State.setIp, State.setPhase]

theorem exec_lzh8Next (s : State) : exec .lzh8Next s = .next s.lzh8Next := rfl

/-- Settles O46: the two NEXT operations, case by case. -/
theorem bodiesEndByLengthOrByBlock : Obligations.BodiesEndByLengthOrByBlock := by
  intro s
  rw [exec_lzh8Next, State.lzh8Next_eq]
  refine ⟨fun hend => ?lzh8End, fun hopen => ?lzh8Body, fun r hr hmore => ?rcBody, fun r hr hlimit hend => ?rcEnd,
    fun r hr hlimit hopen => ?rcBlock⟩
  case lzh8End => simp [hend, Status.closedIf]
  case lzh8Body => simp [hopen, Status.closedIf]
  case rcBody => exact (runOp_of_ok (rcNextOp_of_some hr)).trans (by simp [hmore, Status.closedIf])
  case rcEnd =>
    exact (runOp_of_ok (rcNextOp_of_some hr)).trans (by simp [Nat.not_lt.mpr hlimit, hend, Status.closedIf])
  case rcBlock =>
    exact (runOp_of_ok (rcNextOp_of_some hr)).trans (by simp [Nat.not_lt.mpr hlimit, hopen, Status.closedIf])

end Sys2Proof.Machine

namespace Sys2Proof.Machine

/-! ## Body tokens of LZH8 and Romchu (44_lzh8.md, 45_romchu.md section 3) -/

section Symbols
variable {α β : Type} {t : TableId} {s : State} {r : BitReader} {n m v : Nat} {e : ErrCode}

/-! ### One symbol (rules R87 to R89) -/

/-- Bits that lead to a leaf are taken, and its symbol is the answer. -/
theorem decodeSymbol_takes (hc : s.inCovered) (hok : s.ReaderOk r) (h : r.pos + n ≤ r.limit)
    (htree : treeSymbol (s.table t).node 0 (s.streamBits r.lo r.pos n) = some v) :
    s.Takes r (decodeSymbol t) n v := by
  rw [State.Takes, decodeSymbol_setReader]
  exact walk_takes hc hok h (by omega) htree

/-- Bits the last of which leads to an absent child raise HuffmanTableCorrupt. -/
theorem decodeSymbol_raises_of_missing (hc : s.inCovered) (hok : s.ReaderOk r) (h : r.pos + n ≤ r.limit)
    (htree : treeMissing (s.table t).node 0 (s.streamBits r.lo r.pos n) = true) :
    s.Raises r (decodeSymbol t) .huffmanTableCorrupt := by
  rw [State.Raises, decodeSymbol_setReader]
  exact walk_raises_of_missing hc hok h (by omega) htree

/-- Bits that end at the limit inside the tree raise TruncatedInput. -/
theorem decodeSymbol_raises_of_inside (hc : s.inCovered) (hok : s.ReaderOk r) (h : r.pos + n = r.limit)
    (htree : treeInside (s.table t).node 0 (s.streamBits r.lo r.pos n) = true) :
    s.Raises r (decodeSymbol t) .truncatedInput := by
  rw [State.Raises, decodeSymbol_setReader]
  exact walk_raises_of_inside hc hok h htree

/-- An operation that takes bits leaves the rest of the pseudocode to run at the reader it has moved. -/
theorem State.Takes.runOp_bind {op : Op α} {f : α → Op Unit} {a : α} (h : s.Takes r op n a) :
    ∃ r', s.ReaderOk r' ∧ r.Moved r' n ∧
      Machine.runOp (op >>= f) (s.setReader r) = Machine.runOp (f a) (s.setReader r') := by
  obtain ⟨r', hop, hok, hmoved⟩ := h
  exact ⟨r', hok, hmoved, runOp_congr (by rw [Op.bind_apply, hop])⟩

/-- What an error leaves does not depend on the reader it finds (rule R136). -/
@[simp] theorem State.raise_setReader (s : State) (r : BitReader) (e : ErrCode) : (s.setReader r).raise e = s.raise e :=
  rfl

end Symbols

section Literals
variable {s : State} {r : BitReader} {n v : Nat}

/-! ### Literals (rules R110, R120) -/

/-- LZH8_LIT after its code: the byte is stored while the output is open. -/
theorem lzh8Lit_tail (hopen : s.oc < s.declared) (b : Byte) (r : BitReader) :
    runOp (emitByte b >>= fun _ => update State.lzh8Next) (s.setReader r) =
      .next (s.lzh8Stepped r 1 (Memory.write s.oc b s.outMem)) := by
  have hemit : emitByte b (s.setReader r) = .ok () ((s.setReader r).emit b) := emitByte_of_lt b hopen
  refine runOp_of_ok ?_
  simp only [Op.bind_apply, hemit, update_apply, State.lzh8Next_eq]
  rfl

/-- RC_LIT after its code: the output is checked, and the byte stored while it is open. -/
def rcLitTail (b : Byte) : Op Unit := do
  let s ← get
  if s.oc = s.declared then raised .lengthMismatch
  else
    emitByte b
    rcNextOp

theorem exec_rcLit (b : Byte) (s : State) : exec (.rcLit b) s = runOp (decodeSymbol .t1 >>= fun _ => rcLitTail b) s :=
  rfl

theorem exec_lzh8Lit (b : Byte) (s : State) : exec (.lzh8Lit b) s =
    runOp (decodeSymbol .t1 >>= fun _ => emitByte b >>= fun _ => update State.lzh8Next) s := rfl

theorem rcLitTail_of_full (hfull : s.oc = s.declared) (b : Byte) :
    rcLitTail b s = .error (.error .lengthMismatch) s := by
  simp [rcLitTail, hfull]

theorem rcLitTail_of_open (hopen : s.oc < s.declared) (b : Byte) (r : BitReader) :
    rcLitTail b (s.setReader r) = .ok () (s.rcStepped r 1 (Memory.write s.oc b s.outMem)) := by
  have hemit : emitByte b (s.setReader r) = .ok () ((s.setReader r).emit b) := emitByte_of_lt b hopen
  have hne : ¬ (s.setReader r).oc = (s.setReader r).declared := Nat.ne_of_lt hopen
  simp only [rcLitTail, Op.bind_apply, Op.get_apply, if_neg hne, hemit]
  exact rcNextOp_of_some (s := (s.setReader r).emit b) rfl

end Literals

/-- Settles O36: the walk's three ends, and the byte stored behind the first. -/
theorem lzh8LiteralIsStored : Obligations.Lzh8LiteralIsStored := by
  intro b s r n hc hr hok hfits
  rw [exec_lzh8Lit]
  refine ⟨fun htree => ?missing, fun hend htree => ?inside, fun v htree hopen => ?stored⟩
  case missing => exact ((decodeSymbol_raises_of_missing (t := .t1) hc hok hfits htree).bind _).runOp hr
  case inside => exact ((decodeSymbol_raises_of_inside (t := .t1) hc hok hend htree).bind _).runOp hr
  case stored =>
    obtain ⟨r', hok', hmoved, hrun⟩ := (decodeSymbol_takes (t := .t1) hc hok hfits htree).runOp_bind
    rw [State.setReader_self hr] at hrun
    exact ⟨r', _, hrun.trans (lzh8Lit_tail hopen b r'), rfl, s.outByte_emit b, hok', hmoved⟩

/-- Settles O43: the walk's three ends come before the output is looked at. -/
theorem rcLiteralIsStored : Obligations.RcLiteralIsStored := by
  intro b s r n hc hr hok hfits
  rw [exec_rcLit]
  refine ⟨fun htree => ?missing, fun hend htree => ?inside, fun v htree => ?symbol⟩
  case missing => exact ((decodeSymbol_raises_of_missing (t := .t1) hc hok hfits htree).bind _).runOp hr
  case inside => exact ((decodeSymbol_raises_of_inside (t := .t1) hc hok hend htree).bind _).runOp hr
  case symbol =>
    obtain ⟨r', hok', hmoved, hrun⟩ := (decodeSymbol_takes (t := .t1) hc hok hfits htree).runOp_bind
    rw [State.setReader_self hr] at hrun
    rw [hrun]
    refine ⟨fun hfull => ?full, fun hopen => ?stored⟩
    case full => exact runOp_of_error (t := s.setReader r') (rcLitTail_of_full (s := s.setReader r') hfull b)
    case stored => exact ⟨r', _, runOp_of_ok (rcLitTail_of_open hopen b r'), rfl, s.outByte_emit b, hok', hmoved⟩

section References
variable {s : State} {r : BitReader} {n n1 n2 v displen : Nat}

/-! ### What a back-reference reads before it copies (rules R111, R121) -/

/-- The reads of a back-reference: a symbol of T1, a symbol of T2, and what that symbol calls for. -/
def twoSymbols {α : Type} (f : Nat → Op α) : Op α := decodeSymbol .t1 >>= fun _ => decodeSymbol .t2 >>= f

theorem twoSymbols_raises_of_first {α : Type} {f : Nat → Op α} {e : ErrCode} (h : s.Raises r (decodeSymbol .t1) e) :
    s.Raises r (twoSymbols f) e := h.bind _

/-- The second symbol fails behind a first that is read. -/
theorem twoSymbols_raises_of_second {α : Type} {f : Nat → Op α} {e : ErrCode}
    (h1 : s.Takes r (decodeSymbol .t1) n1 v)
    (h2 : ∀ r', s.ReaderOk r' → r.Moved r' n1 → s.Raises r' (decodeSymbol .t2) e) : s.Raises r (twoSymbols f) e :=
  h1.bind_raises fun r' hok' hmoved => (h2 r' hok' hmoved).bind f

/-- Behind both symbols, the rest of the reads runs at the reader that both have moved. -/
theorem twoSymbols_run {α : Type} (f : Nat → Op α) {x : Nat} (h1 : s.Takes r (decodeSymbol .t1) n1 v)
    (h2 : ∀ r', s.ReaderOk r' → r.Moved r' n1 → s.Takes r' (decodeSymbol .t2) n2 x) :
    ∃ r', s.ReaderOk r' ∧ r.Moved r' (n1 + n2) ∧ twoSymbols f (s.setReader r) = f x (s.setReader r') := by
  obtain ⟨r1, hop1, hok1, hmoved1⟩ := h1
  obtain ⟨r2, hop2, hok2, hmoved2⟩ := h2 r1 hok1 hmoved1
  exact ⟨r2, hok2, hmoved1.trans hmoved2, by simp only [twoSymbols, Op.bind_apply, hop1, hop2]⟩

theorem lzh8RefOp_eq (length : Nat) : lzh8RefOp length =
    twoSymbols lzh8DispOp >>= fun d => copyOp length (d + 1) >>= fun _ => update State.lzh8Next := by
  simp [lzh8RefOp, twoSymbols]

/-- A displacement of either form reads `displen - 1` raw bits, none for 0 (rules R112, R113). -/
theorem lzh8DispOp_reads (hc : s.inCovered) (hok : s.ReaderOk r) (displen : Nat) :
    s.Reads r (lzh8DispOp displen) (displen - 1)
      (if displen = 0 then 0 else 2 ^ (displen - 1) + bitsValue (s.streamBits r.lo r.pos (displen - 1))) := by
  unfold lzh8DispOp
  split
  · next h => rw [h]; exact .pure hok 0
  · exact lzh8DispnOp_reads hc hok displen

/-- A copy behind the reads, in the order of its checks, then the operation that chooses the phase. -/
theorem copy_tail {length distance : Nat} {next : Op Unit} {stepped : Memory → State} (hd : 1 ≤ distance)
    (hnext : ∀ out, next { s with br := some r, oc := s.oc + length, outMem := out } = .ok () (stepped out))
    (hstepped : ∀ out, (stepped out).outMem = out ∧ (stepped out).resets = s.resets) :
    (s.oc < distance → runOp (copyOp length distance >>= fun _ => next) (s.setReader r) =
      .next (s.raise .invalidBackreference)) ∧
    (distance ≤ s.oc → s.declared < s.oc + length →
      runOp (copyOp length distance >>= fun _ => next) (s.setReader r) = .next (s.raise .lengthMismatch)) ∧
    (distance ≤ s.oc → s.oc + length ≤ s.declared →
      ∃ t, runOp (copyOp length distance >>= fun _ => next) (s.setReader r) = .next t ∧ t = stepped t.outMem ∧
        s.Copies t length distance) := by
  refine ⟨fun hbad => ?badDistance, fun hle hlong => ?long, fun hle hfits => ?copied⟩
  case badDistance =>
    have hcopy := copyOp_of_badDistance (s := s.setReader r) (length := length) (.inr hbad)
    exact runOp_of_error (t := s.setReader r) (by rw [Op.bind_apply, hcopy])
  case long =>
    have hcopy := copyOp_of_long (s := s.setReader r) hd hle hlong
    exact runOp_of_error (t := s.setReader r) (by rw [Op.bind_apply, hcopy])
  case copied =>
    have hcopy := copyOp_of_fits (s := s.setReader r) hd hle hfits
    rw [State.copyBytes_frame] at hcopy
    obtain ⟨hout, hresets⟩ := hstepped (State.copyBytes length distance (s.setReader r)).outMem
    refine ⟨_, runOp_of_ok (by rw [Op.bind_apply, hcopy]; exact hnext _), by rw [hout], fun a => ?_⟩
    refine Eq.trans ?_ (State.copyBytes_copies (s := s.setReader r) hd hle length a)
    rw [State.outByte, State.outByte, hout, hresets, State.copyBytes_resets, State.setReader_resets]

theorem lzh8Next_copied {length : Nat} (out : Memory) :
    update State.lzh8Next { s with br := some r, oc := s.oc + length, outMem := out } =
      .ok () (s.lzh8Stepped r length out) := by
  rw [update_apply, State.lzh8Next_eq]
  rfl

theorem rcNext_copied {length : Nat} (out : Memory) :
    rcNextOp { s with br := some r, oc := s.oc + length, outMem := out } = .ok () (s.rcStepped r length out) :=
  rcNextOp_of_some (s := { s with br := some r, oc := s.oc + length, outMem := out }) rfl

/-! ### Extra bits of the Romchu classes (rules R122, R123) -/

theorem rcLenClassOp_reads (hc : s.inCovered) (hok : s.ReaderOk r) {c base extra : Nat}
    (h : lengthClasses[c]? = some (base, extra)) :
    s.Reads r (rcLenClassOp c) extra (base + bitsValue (s.streamBits r.lo r.pos extra)) := by
  unfold rcLenClassOp
  rw [h]
  exact (readBits_reads hc hok).bind_pure _

theorem rcDistClassOp_reads (hc : s.inCovered) (hok : s.ReaderOk r) {dc base extra : Nat}
    (h : distanceClasses[dc]? = some (base, extra)) :
    s.Reads r (rcDistClassOp dc) extra (base + bitsValue (s.streamBits r.lo r.pos extra)) := by
  unfold rcDistClassOp
  rw [h]
  exact (readBits_reads hc hok).bind_pure _

/-- The reads of RC_REF behind its two symbols: the length's extra bits, then the distance's. -/
def rcExtra (c dc : Nat) : Op (Nat × Nat) := do
  let length ← rcLenClassOp c
  let distance ← rcDistClassOp dc
  return (length, distance)

theorem rcRefOp_eq (c : Nat) : rcRefOp c =
    twoSymbols (rcExtra c) >>= fun x => copyOp x.1 x.2 >>= fun _ => rcNextOp := by
  simp [rcRefOp, twoSymbols, rcExtra]

/-- Both classes' extra bits, one behind the other. -/
theorem rcExtra_reads (hc : s.inCovered) (hok : s.ReaderOk r) {c dc lb le db de : Nat}
    (hlength : lengthClasses[c]? = some (lb, le)) (hdistance : distanceClasses[dc]? = some (db, de)) :
    s.Reads r (rcExtra c dc) (de + le) (lb + bitsValue (s.streamBits r.lo r.pos le),
      db + bitsValue (s.streamBits r.lo (r.pos + le) de)) := by
  refine (rcLenClassOp_reads hc hok hlength).bind fun r' hok' hmoved => ?_
  have hrest := rcDistClassOp_reads hc hok' hdistance
  rw [hmoved.lo, hmoved.pos] at hrest
  exact hrest.bind_pure _

/-- Every distance of the table is at least 1 (rule R65). -/
theorem one_le_distanceBase {dc db de : Nat} (h : distanceClasses[dc]? = some (db, de)) : 1 ≤ db := by
  have hall : ∀ x ∈ distanceClasses, 1 ≤ x.1 := by decide
  exact hall _ (List.mem_of_getElem? h)

theorem distanceClasses_of_le {dc : Nat} (h : 30 ≤ dc) : distanceClasses[dc]? = none :=
  List.getElem?_eq_none h

theorem lengthClasses_of_le {c : Nat} (h : 29 ≤ c) : lengthClasses[c]? = none :=
  List.getElem?_eq_none h

theorem rcLenClassOp_of_le {c : Nat} (h : 29 ≤ c) : rcLenClassOp c = faulted .reservedRomchuSymbol1 := by
  unfold rcLenClassOp
  rw [lengthClasses_of_le h]

theorem rcDistClassOp_of_le {dc : Nat} (h : 30 ≤ dc) : rcDistClassOp dc = faulted .reservedRomchuSymbol2 := by
  unfold rcDistClassOp
  rw [distanceClasses_of_le h]

/-- A distance class outside the table stops RC_REF behind the length's extra bits (rule R63). -/
theorem rcExtra_of_le (hc : s.inCovered) (hok : s.ReaderOk r) {c dc lb le : Nat}
    (hlength : lengthClasses[c]? = some (lb, le)) (hdc : 30 ≤ dc) (hfits : r.pos + le ≤ r.limit) :
    ∃ t, rcExtra c dc (s.setReader r) = .error (.fault .reservedRomchuSymbol2) t := by
  obtain ⟨r', hop, -, -⟩ := (rcLenClassOp_reads hc hok hlength).takes hfits
  exact ⟨s.setReader r', by simp [rcExtra, hop, rcDistClassOp_of_le hdc]⟩

end References

section Settle
variable {s : State} {r : BitReader} {n1 : Nat}

/-- How a back-reference whose rest is `tail` fails at one of its symbols, and how it goes on behind both. -/
theorem runOp_twoSymbols {α : Type} (f : Nat → Op α) (tail : α → Op Unit) (hc : s.inCovered) (hr : s.br = some r)
    (hok : s.ReaderOk r) (hn1 : r.pos + n1 ≤ r.limit) :
    (treeMissing s.t1.node 0 (s.streamBits r.lo r.pos n1) = true →
      runOp (twoSymbols f >>= tail) s = .next (s.raise .huffmanTableCorrupt)) ∧
    (r.pos + n1 = r.limit → treeInside s.t1.node 0 (s.streamBits r.lo r.pos n1) = true →
      runOp (twoSymbols f >>= tail) s = .next (s.raise .truncatedInput)) ∧
    (∀ v n2, treeSymbol s.t1.node 0 (s.streamBits r.lo r.pos n1) = some v → r.pos + n1 + n2 ≤ r.limit →
      (treeMissing s.t2.node 0 (s.streamBits r.lo (r.pos + n1) n2) = true →
        runOp (twoSymbols f >>= tail) s = .next (s.raise .huffmanTableCorrupt)) ∧
      (r.pos + n1 + n2 = r.limit → treeInside s.t2.node 0 (s.streamBits r.lo (r.pos + n1) n2) = true →
        runOp (twoSymbols f >>= tail) s = .next (s.raise .truncatedInput)) ∧
      (∀ x, treeSymbol s.t2.node 0 (s.streamBits r.lo (r.pos + n1) n2) = some x →
        ∃ r', s.ReaderOk r' ∧ r.Moved r' (n1 + n2) ∧
          runOp (twoSymbols f >>= tail) s = runOp (f x >>= tail) (s.setReader r'))) := by
  refine ⟨fun htree => ?missing1, fun hend htree => ?inside1, fun v n2 htree1 hn2 => ?second⟩
  case missing1 =>
    exact ((twoSymbols_raises_of_first (decodeSymbol_raises_of_missing hc hok hn1 htree)).bind tail).runOp hr
  case inside1 =>
    exact ((twoSymbols_raises_of_first (decodeSymbol_raises_of_inside hc hok hend htree)).bind tail).runOp hr
  case second =>
    have hfirst := decodeSymbol_takes (t := .t1) hc hok hn1 htree1
    refine ⟨fun htree => ?missing2, fun hend htree => ?inside2, fun x htree => ?both⟩
    case missing2 =>
      refine ((twoSymbols_raises_of_second hfirst fun r' hok' hmoved => ?_).bind tail).runOp hr
      rw [← hmoved.lo, ← hmoved.pos] at htree
      exact decodeSymbol_raises_of_missing (t := .t2) hc hok' (by rw [hmoved.pos, hmoved.limit]; exact hn2) htree
    case inside2 =>
      refine ((twoSymbols_raises_of_second hfirst fun r' hok' hmoved => ?_).bind tail).runOp hr
      rw [← hmoved.lo, ← hmoved.pos] at htree
      exact decodeSymbol_raises_of_inside (t := .t2) hc hok' (by rw [hmoved.pos, hmoved.limit]; exact hend) htree
    case both =>
      obtain ⟨r', hok', hmoved, hrun⟩ := twoSymbols_run f hfirst fun r' hok' hmoved => by
        rw [← hmoved.lo, ← hmoved.pos] at htree
        exact decodeSymbol_takes (t := .t2) hc hok' (by rw [hmoved.pos, hmoved.limit]; exact hn2) htree
      rw [State.setReader_self hr] at hrun
      exact ⟨r', hok', hmoved, runOp_congr (by rw [Op.bind_apply, Op.bind_apply, hrun])⟩

end Settle

/-- Settles O37: the symbols' failures, then the raw bits and the copy. -/
theorem lzh8ReferenceCopies : Obligations.Lzh8ReferenceCopies := by
  intro len3 s r n1 hc hr hok hn1
  have hexec : exec (.lzh8Ref len3) s = runOp (lzh8RefOp (len3.toNat + 3)) s := rfl
  rw [hexec, lzh8RefOp_eq]
  obtain ⟨hmissing1, hinside1, hsecond⟩ := runOp_twoSymbols lzh8DispOp
    (fun d => copyOp (len3.toNat + 3) (d + 1) >>= fun _ => update State.lzh8Next) hc hr hok hn1
  refine ⟨hmissing1, hinside1, fun v n2 htree1 hn2 => ?_⟩
  obtain ⟨hmissing2, hinside2, hboth⟩ := hsecond v n2 htree1 hn2
  refine ⟨hmissing2, hinside2, fun displen d htree2 hd => ?_⟩
  obtain ⟨r1, hok1, hmoved1, hrun⟩ := hboth displen htree2
  have hraw := lzh8DispOp_reads hc hok1 displen
  rw [hmoved1.lo, hmoved1.pos, ← Nat.add_assoc, ← hd] at hraw
  rw [hrun]
  refine ⟨fun hcut => ?cut, fun hfits => ?badDistance, fun hfits => ?long, fun hfits => ?copied⟩
  case cut => exact ((hraw.raises (by rw [hmoved1.pos, hmoved1.limit]; omega)).bind _).runOp_setReader
  all_goals
    obtain ⟨r2, hok2, hmoved2, hrun2⟩ :=
      (hraw.takes (by rw [hmoved1.pos, hmoved1.limit]; omega)).runOp_bind
    rw [hrun2]
    obtain ⟨hbad, hlong, hcopied⟩ := copy_tail (Nat.le_add_left 1 d) (lzh8Next_copied (s := s) (r := r2))
      fun _ => ⟨rfl, rfl⟩
  case badDistance => exact hbad
  case long => exact hlong
  case copied =>
    intro hle hend
    obtain ⟨t, hnext, hframe, hcopies⟩ := hcopied hle hend
    exact ⟨r2, t, hnext, hframe, hcopies, hok2, hmoved1.trans hmoved2⟩

theorem exec_rcRef (cls : BitVec 8) (s : State) : exec (.rcRef cls) s = runOp (rcRefOp cls.toNat) s := rfl

/-- A stop behind a moved reader stops the step. -/
theorem runOp_of_fault {op : Op Unit} {s t : State} {f : Fault} (h : op s = .error (.fault f) t) :
    runOp op s = .fault f := by
  unfold runOp
  rw [h]

/-- Settles O44: the symbols' failures, then the extra bits and the copy. -/
theorem rcReferenceCopies : Obligations.RcReferenceCopies := by
  intro cls s r n1 lb le hc hr hok hlength hn1
  rw [exec_rcRef, rcRefOp_eq]
  obtain ⟨hmissing1, hinside1, hsecond⟩ := runOp_twoSymbols (rcExtra cls.toNat)
    (fun x => copyOp x.1 x.2 >>= fun _ => rcNextOp) hc hr hok hn1
  refine ⟨hmissing1, hinside1, fun v n2 htree1 hn2 => ?_⟩
  obtain ⟨hmissing2, hinside2, hboth⟩ := hsecond v n2 htree1 hn2
  refine ⟨hmissing2, hinside2, fun dc htree2 hdc hfits => ?outside,
    fun dc db de length distance htree2 hdistance hl hd => ?inTable⟩
  case outside =>
    obtain ⟨r1, hok1, hmoved1, hrun⟩ := hboth dc htree2
    obtain ⟨t, ht⟩ := rcExtra_of_le hc hok1 hlength hdc
      (by rw [hmoved1.pos, hmoved1.limit, ← Nat.add_assoc]; exact hfits)
    rw [hrun]
    exact runOp_of_fault (by rw [Op.bind_apply, ht])
  case inTable =>
    obtain ⟨r1, hok1, hmoved1, hrun⟩ := hboth dc htree2
    have hextra := rcExtra_reads hc hok1 hlength hdistance
    rw [hmoved1.lo, hmoved1.pos, ← Nat.add_assoc, ← hl, ← hd] at hextra
    have hpos : 1 ≤ distance := by
      have := one_le_distanceBase hdistance
      omega
    rw [hrun]
    refine ⟨fun hcut => ?cut, fun hfits => ?badDistance, fun hfits => ?long, fun hfits => ?copied⟩
    case cut => exact ((hextra.raises (by rw [hmoved1.pos, hmoved1.limit]; omega)).bind _).runOp_setReader
    all_goals
      obtain ⟨r2, hok2, hmoved2, hrun2⟩ :=
        (hextra.takes (by rw [hmoved1.pos, hmoved1.limit]; omega)).runOp_bind
      rw [hrun2]
      obtain ⟨hbad, hlong, hcopied⟩ := copy_tail (length := length) hpos (rcNext_copied (s := s) (r := r2))
        fun _ => ⟨rfl, rfl⟩
    case badDistance => exact hbad
    case long => exact hlong
    case copied =>
      intro hle hend
      obtain ⟨t, hnext, hframe, hcopies⟩ := hcopied hle hend
      have hmoved := hmoved1.trans hmoved2
      rw [Nat.add_comm de, ← Nat.add_assoc] at hmoved
      exact ⟨r2, t, hnext, hframe, hcopies, hok2, hmoved⟩

/-- Settles O45: the tables evaluated, and the rule of each class's reads. -/
theorem classesAddTheirExtraBits : Obligations.ClassesAddTheirExtraBits := by
  refine ⟨rfl, rfl, rfl, rfl, fun s r hc hr hok => ?_⟩
  refine ⟨fun c base extra h hfits => ?_, fun c base extra h hcut => ?_, fun dc base extra h hcut => ?_,
    fun dc base extra h hfits => ?_⟩
  · exact ((rcLenClassOp_reads hc hok h).takes hfits).runValue hr
  · exact ((rcLenClassOp_reads hc hok h).raises hcut).runValue hr
  · exact ((rcDistClassOp_reads hc hok h).raises hcut).runValue hr
  · exact ((rcDistClassOp_reads hc hok h).takes hfits).runValue hr

end Sys2Proof.Machine

namespace Sys2Proof.Machine

/-! ## The second length of LZH8 (44_lzh8.md) -/

section SecondLength
variable {s : State}

theorem lzh8LengthOp_of_some (h : s.declared ≠ 0) : lzh8LengthOp s = .ok 4 s := by
  simp [lzh8LengthOp, h]

theorem lzh8LengthOp_of_mode_error (h : s.declared = 0) (hmode : s.cfg.extLenMode = .error) :
    lzh8LengthOp s = .error (.error .unsupportedFormat) s := by
  simp [lzh8LengthOp, h, hmode]

theorem lzh8LengthOp_of_cut (h : s.declared = 0) (hmode : s.cfg.extLenMode = .read) (hcut : s.inLen.toNat < 8) :
    lzh8LengthOp s = .error (.error .truncatedInput) s := by
  have hread : memRead 4 4 s = .error (.error .truncatedInput) s := memRead_of_lt (by omega)
  simp [lzh8LengthOp, h, hmode, le32, hread]

/-- With the second length present, it is recorded and then checked. -/
theorem lzh8LengthOp_of_read (hc : s.inCovered) (h : s.declared = 0) (hmode : s.cfg.extLenMode = .read)
    (hin : 8 ≤ s.inLen.toNat) : lzh8LengthOp s =
      (capacityCheckOp (leValue (s.inBytes 4 4)) >>= fun _ => pure 8) (s.setDeclared (leValue (s.inBytes 4 4))) := by
  have hread : memRead 4 4 s = .ok (s.inBytes 4 4) s := memRead_of_le hc (by omega)
  simp [lzh8LengthOp, h, hmode, le32, hread]

theorem lzh8LengthOp_of_fits (hc : s.inCovered) (h : s.declared = 0) (hmode : s.cfg.extLenMode = .read)
    (hin : 8 ≤ s.inLen.toNat) (hfits : s.outFits (leValue (s.inBytes 4 4))) :
    lzh8LengthOp s = .ok 8 (s.setDeclared (leValue (s.inBytes 4 4))) := by
  have hcheck := capacityCheckOp_of_fits (s := s.setDeclared (leValue (s.inBytes 4 4))) hfits
  rw [lzh8LengthOp_of_read hc h hmode hin, Op.bind_apply, hcheck]
  rfl

theorem lzh8LengthOp_of_not_fits (hc : s.inCovered) (h : s.declared = 0) (hmode : s.cfg.extLenMode = .read)
    (hin : 8 ≤ s.inLen.toNat) (hnot : ¬ s.outFits (leValue (s.inBytes 4 4))) :
    lzh8LengthOp s = .error (.error .lengthMismatch) (s.setDeclared (leValue (s.inBytes 4 4))) := by
  have hcheck := capacityCheckOp_of_not_fits (s := s.setDeclared (leValue (s.inBytes 4 4))) hnot
  rw [lzh8LengthOp_of_read hc h hmode hin, Op.bind_apply, hcheck]

/-- An error after the length has been written keeps OUT_LEN alone (rule R136). -/
theorem State.raise_setDeclared (s : State) (n : Nat) (e : ErrCode) :
    (s.setDeclared n).raise e = State.raise { s with outLen := BitVec.ofNat 32 n } e := rfl

/-- LZH8_SETUP once the length is known: an empty output ends the call, else both tables are loaded. -/
def lzh8SetupTail (a : Nat) : Op Unit := do
  let s ← get
  if s.declared = 0 then update State.complete
  else
    let a ← lzh8TableOp .t1 s.cfg.lzh8S1 a
    let a ← lzh8TableOp .t2 s.cfg.lzh8S2 a
    brInitOp a s.inLen.toNat none
    update fun s => s.setPhase .lzh8Body

theorem exec_lzh8Setup (s : State) : exec .lzh8Setup s = runOp (lzh8LengthOp >>= lzh8SetupTail) s := rfl

/-- The length's answer leaves the rest of LZH8_SETUP to run. -/
theorem exec_lzh8Setup_of_length {a : Nat} {t : State} (h : lzh8LengthOp s = .ok a t) :
    exec .lzh8Setup s = runOp (lzh8SetupTail a) t := by
  rw [exec_lzh8Setup]
  exact runOp_congr (by rw [Op.bind_apply, h])

theorem exec_lzh8Setup_of_error {e : ErrCode} {t : State} (h : lzh8LengthOp s = .error (.error e) t) :
    exec .lzh8Setup s = .next (t.raise e) := by
  rw [exec_lzh8Setup]
  exact runOp_of_error (by rw [Op.bind_apply, h])

theorem lzh8SetupTail_of_empty (h : s.declared = 0) (a : Nat) : lzh8SetupTail a s = .ok () s.complete := by
  simp [lzh8SetupTail, h]

end SecondLength

/-- Settles O34: each clause is one branch of the second length. -/
theorem lzh8SecondLength : Obligations.Lzh8SecondLength := by
  intro s hc hzero
  refine ⟨fun hmode => ?modeError, fun hmode hcut => ?cut, fun hmode hin hempty => ?empty,
    fun hmode hin hnot => ?notFits⟩
  case modeError => exact exec_lzh8Setup_of_error (lzh8LengthOp_of_mode_error hzero hmode)
  case cut => exact exec_lzh8Setup_of_error (lzh8LengthOp_of_cut hzero hmode hcut)
  case empty =>
    have hfits : s.outFits (leValue (s.inBytes 4 4)) := fun c _ => hempty ▸ Nat.zero_le c
    rw [exec_lzh8Setup_of_length (lzh8LengthOp_of_fits hc hzero hmode hin hfits), hempty]
    refine (runOp_of_ok (lzh8SetupTail_of_empty rfl 8)).trans ?_
    simp [State.complete, State.setDeclared, Status.succeeded, hzero]
  case notFits =>
    rw [← State.raise_setDeclared]
    exact exec_lzh8Setup_of_error (lzh8LengthOp_of_not_fits hc hzero hmode hin hnot)

/-! ## What does not exist is not delivered -/

section NoReader
variable {α : Type} {s : State}

/-- A read of the active reader while none exists (rule R32). -/
theorem reader_of_none (h : s.br = none) : reader s = .error (.error .truncatedInput) s := by
  unfold reader
  rw [h]

theorem nextBit_of_none (h : s.br = none) : nextBit s = .error (.error .truncatedInput) s := by
  simp [nextBit, reader_of_none h]

theorem decodeSymbol_of_none (h : s.br = none) (t : TableId) :
    decodeSymbol t s = .error (.error .truncatedInput) s := by
  simp [decodeSymbol, reader_of_none h]

/-- Pseudocode whose first part raises, raises (rule R9). -/
theorem runOp_bind_of_error {op : Op α} {e : ErrCode} {t : State} (h : op s = .error (.error e) t)
    (f : α → Op Unit) : runOp (op >>= f) s = .next (t.raise e) :=
  runOp_of_error (by rw [Op.bind_apply, h])

theorem runValue_bind_of_error {op : Op α} {e : ErrCode} {t : State} (h : op s = .error (.error e) t)
    (f : α → Op Nat) : runValue (op >>= f) s = .next (t.raise e) :=
  runValue_of_error (by rw [Op.bind_apply, h])

/-- A byte at or above a finite IN_CAPACITY stops the machine (rule R33). -/
theorem takeBytes_one_of_capacity {c : Nat} (hin : s.ip < s.inLen.toNat) (hcap : s.cfg.inCapacity = some c)
    (h : c ≤ s.ip) : takeBytes 1 s = .error (.fault .noSuchInAddress) s := by
  have hread : memRead s.ip 1 s = .error (.fault .noSuchInAddress) s := by
    unfold memRead
    rw [if_neg (by omega), if_pos (by simpa [hcap] using Nat.lt_succ_of_le h)]
  simp [takeBytes, hread]

theorem runOp_bind_of_fault {op : Op α} {f : Fault} {t : State} (h : op s = .error (.fault f) t)
    (g : α → Op Unit) : runOp (op >>= g) s = .fault f :=
  runOp_of_fault (by rw [Op.bind_apply, h])

theorem runValue_of_fault {op : Op Nat} {f : Fault} {t : State} (h : op s = .error (.fault f) t) :
    runValue op s = .fault f := by
  unfold runValue
  rw [h]

end NoReader

/-- Settles O48: the reader, the byte and the class are looked at before anything else. -/
theorem whatDoesNotExistIsNotDelivered : Obligations.WhatDoesNotExistIsNotDelivered := by
  intro s
  refine ⟨fun hr => ?noReader, fun b c hin hcap h => ?noByte, fun c hc => ?noLength, fun dc hdc => ?noDistance⟩
  case noReader =>
    exact ⟨fun n => runValue_bind_of_error (nextBit_of_none hr) _, exec_brRefill_of_error (nextBit_of_none hr),
      fun _ => runOp_bind_of_error (reader_of_none hr) _, fun t => runValue_of_error (decodeSymbol_of_none hr t),
      fun _ => runOp_bind_of_error (decodeSymbol_of_none hr .t1) _,
      fun _ => runOp_bind_of_error (decodeSymbol_of_none hr .t1) _,
      fun _ => runOp_bind_of_error (decodeSymbol_of_none hr .t1) _,
      fun _ => runOp_bind_of_error (decodeSymbol_of_none hr .t1) _,
      runOp_bind_of_error (reader_of_none hr) _⟩
  case noByte =>
    have htake := takeBytes_one_of_capacity hin hcap h
    exact ⟨runOp_bind_of_fault htake _, runOp_bind_of_fault htake _⟩
  case noLength => exact runValue_of_fault (by rw [rcLenClassOp_of_le hc]; rfl)
  case noDistance => exact runValue_of_fault (by rw [rcDistClassOp_of_le hdc]; rfl)

/-! ## Selection (10_state.md section 4, 42_sliding_window.md section 3) -/

section Fetch
variable {s : State} {op : Op (Except DecodeError Instr)} {i : Instr}

/-- The step runs what the fetch's look decodes, and adds nothing. -/
theorem step_of_look {t : State} (hhost : s.host = []) (hf : fetch s = fetchWith op s) (h : op s = .ok (.ok i) t) :
    step s = exec i s := by
  refine step_of_fetch_run hhost ?_
  rw [hf, fetchWith, h]
  rfl

/-- The step takes the error the fetch's look raises. -/
theorem step_of_look_error {t : State} {e : ErrCode} (hhost : s.host = []) (hf : fetch s = fetchWith op s)
    (h : op s = .error (.error e) t) : step s = .next (s.raise e) := by
  refine step_of_fetch_error hhost ?_
  rw [hf, fetchWith, h]

theorem fetch_lzFlag (h : s.phase = .lzFlag) : fetch s = fetchWith lookFlags s := by
  unfold fetch
  rw [h]

theorem fetch_lzToken (h : s.phase = .lzToken) : fetch s = fetchWith lookToken s := by
  unfold fetch
  rw [h]

theorem fetch_h8Walk (h : s.phase = .h8Walk) : fetch s = fetchWith lookPoolBit s := by
  unfold fetch
  rw [h]

theorem fetch_lzh8Body (h : s.phase = .lzh8Body) : fetch s = fetchWith (lookSymbol .lzh8Sym1) s := by
  unfold fetch
  rw [h]

theorem fetch_rcBody (h : s.phase = .rcBody) : fetch s = fetchWith (lookSymbol .rcSym1) s := by
  unfold fetch
  rw [h]

/-- The phases whose operation needs no look at the input. -/
theorem fetch_of_phase {p : Phase} (h : s.phase = p)
    (hi : (p, i) ∈ [(Phase.dispatch, Instr.dispatch), (.h8Setup, .h8Setup), (.lzh8Setup, .lzh8Setup),
      (.rcBlock, .rcBlock)]) : fetch s = .run i := by
  simp only [List.mem_cons, Prod.mk.injEq, List.not_mem_nil, or_false] at hi
  unfold fetch
  rcases hi with ⟨rfl, rfl⟩ | ⟨rfl, rfl⟩ | ⟨rfl, rfl⟩ | ⟨rfl, rfl⟩ <;> rw [h]

/-! ### What each look reads -/

theorem beValue_singleton (b : Byte) : beValue [b] = b.toNat := by simp [beValue]

theorem lookFlags_of_le (hc : s.inCovered) (h : s.ip + 1 ≤ s.inLen.toNat) :
    lookFlags s = .ok (decode .lzFlag8 (s.inByte s.ip).toNat []) s := by
  simp [lookFlags, memRead_one hc h, beValue_singleton]

theorem lookFlags_of_cut (h : s.inLen.toNat < s.ip + 1) : lookFlags s = .error (.error .truncatedInput) s := by
  simp [lookFlags, memRead_of_lt h]

theorem lookToken_of_literal (hflag : s.flagBit = false) : lookToken s = lookLiteral s := by
  simp [lookToken, hflag]

theorem lookLiteral_of_le (hc : s.inCovered) (h : s.ip + 1 ≤ s.inLen.toNat) :
    lookLiteral s = .ok (decode .lzFlagbit 0 [s.inByte s.ip]) s := by
  simp [lookLiteral, memRead_one hc h]

theorem lookLiteral_of_cut (h : s.inLen.toNat < s.ip + 1) : lookLiteral s = .error (.error .truncatedInput) s := by
  simp [lookLiteral, memRead_of_lt h]

theorem lookToken_of_lz10 (hflag : s.flagBit = true) (hfmt : s.fmt = 1 ∨ s.fmt = 3) : lookToken s = lookLz10 s := by
  have hcode : s.fmt = Format.lz10.code ∨ s.fmt = Format.n64lz.code := hfmt
  simp [lookToken, hflag, hcode]

theorem lookToken_of_lz11 (hflag : s.flagBit = true) (hfmt : s.fmt = 2) : lookToken s = lookLz11 s := by
  simp [lookToken, hflag, hfmt, Format.code]

theorem lookLz10_of_le (hc : s.inCovered) (h : s.ip + 2 ≤ s.inLen.toNat) :
    lookLz10 s = .ok (decode .lz10Tok16 (beValue (s.inBytes s.ip 2)) []) s := by
  simp [lookLz10, be16, memRead_of_le hc h]

theorem lookLz10_of_cut (h : s.inLen.toNat < s.ip + 2) : lookLz10 s = .error (.error .truncatedInput) s := by
  simp [lookLz10, be16, memRead_of_lt h]

theorem lookLz11_of_le (hc : s.inCovered)
    (h : s.ip + 2 + lz11ExtraBytes (beValue (s.inBytes s.ip 2)) ≤ s.inLen.toNat) :
    lookLz11 s = .ok (decode .lz11Info16 (beValue (s.inBytes s.ip 2))
      (s.inBytes (s.ip + 2) (lz11ExtraBytes (beValue (s.inBytes s.ip 2))))) s := by
  have hinfo : memRead s.ip 2 s = .ok (s.inBytes s.ip 2) s := memRead_of_le hc (by omega)
  simp [lookLz11, be16, hinfo, memRead_of_le hc h]

theorem lookLz11_of_info_cut (h : s.inLen.toNat < s.ip + 2) : lookLz11 s = .error (.error .truncatedInput) s := by
  simp [lookLz11, be16, memRead_of_lt h]

theorem lookLz11_of_rest_cut (hc : s.inCovered) (hin : s.ip + 2 ≤ s.inLen.toNat)
    (h : s.inLen.toNat < s.ip + 2 + lz11ExtraBytes (beValue (s.inBytes s.ip 2))) :
    lookLz11 s = .error (.error .truncatedInput) s := by
  simp [lookLz11, be16, memRead_of_le hc hin, memRead_of_lt h]

theorem lookPoolBit_of_ready (hc : s.inCovered) (h : s.poolReady) :
    lookPoolBit s = .ok (decode .h8Bit (s.pooled.pw.getLsbD s.pooled.pbits).toNat []) (s.setH8 s.pooled) := by
  simp [lookPoolBit, poolBit_of_ready hc h]

theorem lookPoolBit_of_not_ready (h : ¬ s.poolReady) : lookPoolBit s = .error (.error .truncatedInput) s := by
  simp [lookPoolBit, poolBit_of_not_ready h]

theorem lookSymbol_of_takes {r : BitReader} {n v : Nat} (hr : s.br = some r) (h : s.Takes r (decodeSymbol .t1) n v)
    (c : Context) : ∃ t, lookSymbol c s = .ok (decode c v []) t := by
  obtain ⟨r', hop, -, -⟩ := h
  rw [State.setReader_self hr] at hop
  exact ⟨s.setReader r', by simp [lookSymbol, hop]⟩

theorem lookSymbol_of_raises {r : BitReader} {e : ErrCode} (hr : s.br = some r)
    (h : s.Raises r (decodeSymbol .t1) e) (c : Context) : ∃ t, lookSymbol c s = .error (.error e) t := by
  obtain ⟨r', hop⟩ := h
  rw [State.setReader_self hr] at hop
  exact ⟨s.setReader r', by simp [lookSymbol, hop]⟩

/-- In both body phases the look is one symbol of T1, in the phase's context. -/
theorem fetch_body (h : s.phase = .lzh8Body ∨ s.phase = .rcBody) : ∃ c, fetch s = fetchWith (lookSymbol c) s := by
  rcases h with h | h
  · exact ⟨_, fetch_lzh8Body h⟩
  · exact ⟨_, fetch_rcBody h⟩

end Fetch

/-- Settles O52: phase by phase, what the look reads, or the error it raises. -/
theorem stepRunsTheDecodedOperation : Obligations.StepRunsTheDecodedOperation := by
  intro s hhost hc
  refine ⟨fun h => step_of_fetch_run hhost (fetch_of_phase h (by simp)),
    fun h => step_of_fetch_run hhost (fetch_of_phase h (by simp)),
    fun h => step_of_fetch_run hhost (fetch_of_phase h (by simp)),
    fun h => step_of_fetch_run hhost (fetch_of_phase h (by simp)),
    fun i hphase hin hd => ?flags, fun i hphase hflag hin hd => ?literal, fun i hphase hflag hfmt hin hd => ?lz10,
    fun i hphase hflag hfmt hin hd => ?lz11, fun i hphase hready hd => ?poolBit,
    fun i r n v hr hok hfits htree => ?symbol, fun hphase hcut => ?flagsCut, fun hphase hflag hcut => ?literalCut,
    fun hphase hflag hfmt hcut => ?tokenCut, fun hphase hflag hfmt hin hcut => ?restCut,
    fun hphase hnot => ?poolCut, fun r n hr hok hfits hphase => ?walk⟩
  case flags => exact step_of_look hhost (fetch_lzFlag hphase) ((lookFlags_of_le hc hin).trans (by rw [hd]))
  case literal =>
    exact step_of_look hhost (fetch_lzToken hphase)
      ((lookToken_of_literal hflag).trans ((lookLiteral_of_le hc hin).trans (by rw [hd])))
  case lz10 =>
    exact step_of_look hhost (fetch_lzToken hphase)
      ((lookToken_of_lz10 hflag hfmt).trans ((lookLz10_of_le hc hin).trans (by rw [hd])))
  case lz11 =>
    exact step_of_look hhost (fetch_lzToken hphase)
      ((lookToken_of_lz11 hflag hfmt).trans ((lookLz11_of_le hc hin).trans (by rw [hd])))
  case poolBit =>
    exact step_of_look hhost (fetch_h8Walk hphase) ((lookPoolBit_of_ready hc hready).trans (by rw [hd]))
  case symbol =>
    have htakes := decodeSymbol_takes (t := .t1) hc hok hfits htree
    refine ⟨fun hphase hd => ?_, fun hphase hd => ?_⟩
    · obtain ⟨t, ht⟩ := lookSymbol_of_takes hr htakes .lzh8Sym1
      exact step_of_look hhost (fetch_lzh8Body hphase) (ht.trans (by rw [hd]))
    · obtain ⟨t, ht⟩ := lookSymbol_of_takes hr htakes .rcSym1
      exact step_of_look hhost (fetch_rcBody hphase) (ht.trans (by rw [hd]))
  case flagsCut => exact step_of_look_error hhost (fetch_lzFlag hphase) (lookFlags_of_cut hcut)
  case literalCut =>
    exact step_of_look_error hhost (fetch_lzToken hphase)
      ((lookToken_of_literal hflag).trans (lookLiteral_of_cut hcut))
  case tokenCut =>
    refine step_of_look_error (t := s) hhost (fetch_lzToken hphase) ?_
    rcases hfmt with hfmt | hfmt | hfmt
    · exact (lookToken_of_lz10 hflag (.inl hfmt)).trans (lookLz10_of_cut hcut)
    · exact (lookToken_of_lz11 hflag hfmt).trans (lookLz11_of_info_cut hcut)
    · exact (lookToken_of_lz10 hflag (.inr hfmt)).trans (lookLz10_of_cut hcut)
  case restCut =>
    exact step_of_look_error hhost (fetch_lzToken hphase)
      ((lookToken_of_lz11 hflag hfmt).trans (lookLz11_of_rest_cut hc hin hcut))
  case poolCut => exact step_of_look_error hhost (fetch_h8Walk hphase) (lookPoolBit_of_not_ready hnot)
  case walk =>
    obtain ⟨c, hf⟩ := fetch_body hphase
    refine ⟨fun htree => ?_, fun hend htree => ?_⟩
    · obtain ⟨t, ht⟩ := lookSymbol_of_raises hr (decodeSymbol_raises_of_missing (t := .t1) hc hok hfits htree) c
      exact step_of_look_error hhost hf ht
    · obtain ⟨t, ht⟩ := lookSymbol_of_raises hr (decodeSymbol_raises_of_inside (t := .t1) hc hok hend htree) c
      exact step_of_look_error hhost hf ht

end Sys2Proof.Machine

namespace Sys2Proof.Machine

/-! ## The canonical code and its tree (41_huffman_table.md section 2)

The arena is looked at through the bit strings that lead into it: `pathTo` is the node a string leads to and `labelAt`
the symbol there. An insertion adds one string's beginnings to the first and one label to the second. -/

/-! ### Bits of a value -/

/-- The bits of a value, cut in two: the upper ones are those of the value shifted down. -/
theorem valueBits_add (n m v : Nat) : valueBits (n + m) v = valueBits n (v / 2 ^ m) ++ valueBits m v := by
  induction n with
  | zero => simp [valueBits]
  | succ n ih =>
    rw [Nat.succ_add, valueBits, valueBits, ih, Nat.testBit_div_two_pow]
    rfl

@[simp] theorem length_valueBits (n v : Nat) : (valueBits n v).length = n := by
  induction n with
  | zero => rfl
  | succ n ih => rw [valueBits, List.length_cons, ih]

/-- Bits read behind a value: the value moves up by their number. -/
theorem foldl_bits_eq (bs : List Bool) (v : Nat) :
    bs.foldl (fun v b => v * 2 + b.toNat) v = v * 2 ^ bs.length + bitsValue bs := by
  induction bs generalizing v with
  | nil => simp [bitsValue]
  | cons b bs ih =>
    rw [bitsValue, List.foldl_cons, List.foldl_cons, ih, ih (0 * 2 + b.toNat), List.length_cons]
    ring

theorem bitsValue_cons (b : Bool) (bs : List Bool) : bitsValue (b :: bs) = b.toNat * 2 ^ bs.length + bitsValue bs := by
  rw [bitsValue, List.foldl_cons, foldl_bits_eq]
  simp

/-- The bits of a value spell it, as far as they go. -/
theorem bitsValue_valueBits (n v : Nat) : bitsValue (valueBits n v) = v % 2 ^ n := by
  induction n with
  | zero => simp [valueBits, bitsValue, Nat.mod_one]
  | succ n ih =>
    rw [valueBits, bitsValue_cons, length_valueBits, ih, Nat.mod_pow_succ, Nat.toNat_testBit]
    ring

theorem bitsValue_valueBits_of_lt {n v : Nat} (h : v < 2 ^ n) : bitsValue (valueBits n v) = v := by
  rw [bitsValue_valueBits, Nat.mod_eq_of_lt h]

/-- One code's bits begin another's only if its value is the other's, shifted down to its length. -/
theorem eq_div_of_valueBits_isPrefix {l l' c c' : Nat} (hc : c < 2 ^ l) (hc' : c' < 2 ^ l')
    (h : valueBits l c <+: valueBits l' c') : l ≤ l' ∧ c = c' / 2 ^ (l' - l) := by
  have hle : l ≤ l' := by simpa using h.length_le
  refine ⟨hle, ?_⟩
  obtain ⟨d, rfl⟩ := Nat.exists_eq_add_of_le hle
  have heq : valueBits l c = valueBits l (c' / 2 ^ d) := by
    rw [valueBits_add] at h
    simpa [List.prefix_iff_eq_take, List.take_left'] using h
  have hlt : c' / 2 ^ d < 2 ^ l := Nat.div_lt_of_lt_mul (by rwa [Nat.mul_comm, ← Nat.pow_add])
  have hvalues := congrArg bitsValue heq
  rwa [bitsValue_valueBits_of_lt hc, bitsValue_valueBits_of_lt hlt, ← Nat.add_sub_cancel_left (n := l) (m := d)]
    at hvalues

/-! ### The Kraft sum and the codes (rules R79 to R81) -/

/-- The codes of length `l` and the codes that begin with a shorter one: the number of strings of `l` bits that the
lengths up to `l` use up. -/
def codesUsed (lens : List Nat) (l : Nat) : Nat := firstCode lens l + lengthCount lens l

theorem codesUsed_zero (lens : List Nat) : codesUsed lens 0 = 0 := rfl

theorem codesUsed_succ (lens : List Nat) (l : Nat) :
    codesUsed lens (l + 1) = codesUsed lens l * 2 + lens.count (l + 1) := rfl

/-- The part of the Kraft sum that the lengths up to `l` make, in units of `2^-l`. -/
def kraftUpTo (l : Nat) (lens : List Nat) : Nat := (lens.map fun x => if x = 0 ∨ l < x then 0 else 2 ^ (l - x)).sum

theorem kraftUpTo_succ (l : Nat) (lens : List Nat) :
    kraftUpTo (l + 1) lens = kraftUpTo l lens * 2 + lens.count (l + 1) := by
  induction lens with
  | nil => rfl
  | cons x lens ih =>
    have hterm : (if x = 0 ∨ l + 1 < x then 0 else 2 ^ (l + 1 - x)) =
        (if x = 0 ∨ l < x then 0 else 2 ^ (l - x)) * 2 + if x = l + 1 then 1 else 0 := by
      rcases Nat.lt_trichotomy x (l + 1) with hlt | rfl | hgt
      · rcases Nat.eq_zero_or_pos x with rfl | hpos
        · simp
        · rw [if_neg (by omega), if_neg (by omega), if_neg (by omega), Nat.succ_sub (by omega), Nat.pow_succ,
            Nat.add_zero]
      · simp
      · rw [if_pos (by omega), if_pos (by omega), if_neg (by omega)]
    unfold kraftUpTo at ih ⊢
    rw [List.map_cons, List.sum_cons, ih, hterm, List.map_cons, List.sum_cons, List.count_cons]
    simp only [beq_iff_eq]
    ring

/-- The canonical code uses up as many strings as the Kraft sum counts. -/
theorem codesUsed_eq_kraftUpTo (lens : List Nat) (l : Nat) : codesUsed lens l = kraftUpTo l lens := by
  induction l with
  | zero =>
    have hzero : ∀ x ∈ lens.map fun x => if x = 0 ∨ 0 < x then 0 else 2 ^ (0 - x), x = 0 := by
      simp only [List.mem_map]
      rintro y ⟨x, -, rfl⟩
      exact if_pos (by omega)
    rw [codesUsed_zero, kraftUpTo, List.sum_eq_zero hzero]
  | succ l ih => rw [codesUsed_succ, kraftUpTo_succ, ih]

theorem codesUsed_eq_kraftSum {lens : List Nat} {m : Nat} (h : ∀ l ∈ lens, l ≤ m) :
    codesUsed lens m = kraftSum m lens := by
  rw [codesUsed_eq_kraftUpTo, kraftUpTo, kraftSum]
  refine congrArg List.sum (List.map_congr_left fun x hx => ?_)
  have hle := h x hx
  exact if_congr (by omega) rfl rfl

/-- Longer codes begin above the shorter ones: each string used up excludes all that it begins (rule R80). -/
theorem codesUsed_mul_le_firstCode (lens : List Nat) (l d : Nat) :
    codesUsed lens l * 2 ^ (d + 1) ≤ firstCode lens (l + d + 1) := by
  induction d with
  | zero => exact le_of_eq (by rw [Nat.zero_add, Nat.pow_one]; rfl)
  | succ d ih =>
    calc codesUsed lens l * 2 ^ (d + 1 + 1) = codesUsed lens l * 2 ^ (d + 1) * 2 := by rw [Nat.pow_succ, Nat.mul_assoc]
      _ ≤ (firstCode lens (l + d + 1) + lengthCount lens (l + d + 1)) * 2 := by omega
      _ = firstCode lens (l + (d + 1) + 1) := rfl

/-- Every symbol's canonical code fits its length (rule R81). -/
def CodesFit (lens : List Nat) : Prop := ∀ v l, lens[v]? = some l → 0 < l → canonicalCode lens v l < 2 ^ l

/-- A symbol's code lies among the codes of its length. -/
theorem canonicalCode_lt_codesUsed {lens : List Nat} {v l : Nat} (h : lens[v]? = some l) (hpos : 0 < l) :
    canonicalCode lens v l < codesUsed lens l := by
  have hcount : (lens.take (v + 1)).count l ≤ lens.count l := (List.take_sublist ..).count_le l
  rw [List.take_add_one, h, List.count_append, Option.toList_some, List.count_singleton_self] at hcount
  rw [canonicalCode, codesUsed, lengthCount, if_neg (by omega)]
  omega

/-- The last code of a length ends where the codes used up end. -/
theorem exists_last_code {lens : List Nat} {l : Nat} (h : 0 < lens.count l) :
    ∃ v, lens[v]? = some l ∧ (lens.take v).count l + 1 = lens.count l := by
  induction lens using List.reverseRecOn with
  | nil => simp at h
  | append_singleton lens x ih =>
    by_cases hx : x = l
    · subst hx
      exact ⟨lens.length, by simp, by simp⟩
    · have hcount : (lens ++ [x]).count l = lens.count l := by simp [List.count_append, hx]
      obtain ⟨v, hv, htake⟩ := ih (hcount ▸ h)
      have hlt : v < lens.length := (List.getElem?_eq_some_iff.mp hv).1
      exact ⟨v, by rw [List.getElem?_append_left hlt, hv], by
        rw [List.take_append_of_le_length hlt.le, htake, hcount]⟩

/-- The strings of `m` bits suffice exactly if every code fits its length (rule R81). -/
theorem codesFit_iff {lens : List Nat} {m : Nat} (h : ∀ l ∈ lens, l ≤ m) :
    CodesFit lens ↔ codesUsed lens m ≤ 2 ^ m := by
  constructor
  · intro hfit
    have hused : ∀ l, codesUsed lens l ≤ 2 ^ l := by
      intro l
      induction l with
      | zero => exact Nat.zero_le _
      | succ l ih =>
        rw [codesUsed_succ, Nat.pow_succ]
        rcases Nat.eq_zero_or_pos (lens.count (l + 1)) with hnone | hsome
        · omega
        · obtain ⟨v, hv, hlast⟩ := exists_last_code hsome
          have hcode := hfit v (l + 1) hv (Nat.succ_pos l)
          rw [canonicalCode, Nat.pow_succ] at hcode
          have hfirst : firstCode lens (l + 1) = codesUsed lens l * 2 := rfl
          omega
    exact hused m
  · intro hused v l hv hpos
    have hle : l ≤ m := h l (List.mem_of_getElem? hv)
    have hcode := canonicalCode_lt_codesUsed hv hpos
    obtain ⟨d, rfl⟩ := Nat.exists_eq_add_of_le hle
    cases d with
    | zero => exact hcode.trans_le hused
    | succ d =>
      have hmul := codesUsed_mul_le_firstCode lens l d
      have hbound : codesUsed lens l * 2 ^ (d + 1) ≤ 2 ^ l * 2 ^ (d + 1) := by
        rw [← Nat.pow_add]
        refine le_trans (hmul.trans ?_) hused
        exact Nat.le_add_right ..
      exact hcode.trans_le (Nat.le_of_mul_le_mul_right hbound (Nat.two_pow_pos _))

/-- Two symbols' codes do not begin one another (rule R81). -/
theorem canonicalCode_not_isPrefix {lens : List Nat} (hfit : CodesFit lens) {v v' l l' : Nat} (hne : v ≠ v')
    (hv : lens[v]? = some l) (hv' : lens[v']? = some l') (hpos : 0 < l) (hpos' : 0 < l') :
    ¬ valueBits l (canonicalCode lens v l) <+: valueBits l' (canonicalCode lens v' l') := by
  intro h
  obtain ⟨hle, heq⟩ := eq_div_of_valueBits_isPrefix (hfit v l hv hpos) (hfit v' l' hv' hpos') h
  obtain ⟨d, rfl⟩ := Nat.exists_eq_add_of_le hle
  have hused := canonicalCode_lt_codesUsed hv hpos
  cases d with
  | zero =>
    simp only [Nat.add_zero, Nat.sub_self, Nat.pow_zero, Nat.div_one, canonicalCode] at heq hv'
    have hmono : ∀ {a b : Nat}, lens[a]? = some l → a < b → (lens.take a).count l < (lens.take b).count l := by
      intro a b ha hab
      have hstep : (lens.take (a + 1)).count l = (lens.take a).count l + 1 := by
        rw [List.take_add_one, ha, List.count_append, Option.toList_some, List.count_singleton_self]
      have hrest : (lens.take (a + 1)).count l ≤ (lens.take b).count l :=
        (List.take_sublist_take_left hab).count_le l
      omega
    rcases Nat.lt_or_gt_of_ne hne with hlt | hgt
    · have := hmono hv hlt
      omega
    · have := hmono hv' hgt
      omega
  | succ d =>
    rw [Nat.add_sub_cancel_left] at heq
    have hmul : codesUsed lens l * 2 ^ (d + 1) ≤ canonicalCode lens v' (l + (d + 1)) :=
      (codesUsed_mul_le_firstCode lens l d).trans (Nat.le_add_right ..)
    have hdiv : codesUsed lens l ≤ canonicalCode lens v' (l + (d + 1)) / 2 ^ (d + 1) :=
      (Nat.le_div_iff_mul_le (Nat.two_pow_pos _)).mpr hmul
    omega

end Sys2Proof.Machine

namespace Sys2Proof.Machine

/-! ### Code assignment (rule R81) -/

/-- A symbol's number, its length and its code, if it has a length. -/
def symbolCode (lens : List Nat) (x : Nat × Nat) : Option (Nat × Nat × Nat) :=
  if x.1 = 0 then none else some (x.2, x.1, canonicalCode lens x.2 x.1)

/-- The codes of the symbols from `k` on, `rest` being their lengths. -/
def codesFrom (lens rest : List Nat) (k : Nat) : List (Nat × Nat × Nat) := (rest.zipIdx k).filterMap (symbolCode lens)

/-- The codes of every symbol that has a length, in symbol order. -/
def canonicalCodes (lens : List Nat) : List (Nat × Nat × Nat) := codesFrom lens lens 0

theorem codesFrom_cons_zero (lens rest : List Nat) (k : Nat) :
    codesFrom lens (0 :: rest) k = codesFrom lens rest (k + 1) := rfl

theorem codesFrom_cons {l : Nat} (h : l ≠ 0) (lens rest : List Nat) (k : Nat) :
    codesFrom lens (l :: rest) k = (k, l, canonicalCode lens k l) :: codesFrom lens rest (k + 1) := by
  have hcode : symbolCode lens (l, k) = some (k, l, canonicalCode lens k l) := if_neg h
  rw [codesFrom, List.zipIdx_cons, List.filterMap_cons_some hcode]
  rfl

/-- A symbol with a length takes the next free code of that length, if it fits. -/
theorem assignCodes_cons {l : Nat} (h : l ≠ 0) (rest : List Nat) (sym : Nat) (next : List Nat) :
    assignCodes (l :: rest) sym next =
      if 2 ^ l ≤ next.getD l 0 then none
      else (assignCodes rest (sym + 1) (next.set l (next.getD l 0 + 1))).map fun codes =>
        (sym, l, next.getD l 0) :: codes := by
  rw [assignCodes, if_neg h]

/-- Assignment answers the canonical codes of the symbols it goes over, if each fits its length. `pre` are the lengths
before them, and `next` holds the next free code of each length. -/
theorem assignCodes_eq {lens pre rest next : List Nat} (hlens : lens = pre ++ rest)
    (hrest : ∀ l ∈ rest, l < next.length)
    (hnext : ∀ l, 0 < l → l < next.length → next.getD l 0 = firstCode lens l + pre.count l) :
    assignCodes rest pre.length next =
      if ∀ x ∈ codesFrom lens rest pre.length, x.2.2 < 2 ^ x.2.1 then some (codesFrom lens rest pre.length)
      else none := by
  induction rest generalizing pre next with
  | nil => exact (if_pos nofun).symm
  | cons l rest ih =>
    have hlens' : lens = (pre ++ [l]) ++ rest := by rw [hlens, List.append_assoc]; rfl
    have hlength : (pre ++ [l]).length = pre.length + 1 := by simp
    rcases Nat.eq_zero_or_pos l with rfl | hpos
    · have hskip := ih hlens' (fun x hx => hrest x (List.mem_cons_of_mem _ hx)) fun x hx hlt => by
        rw [hnext x hx hlt, List.count_append, List.count_singleton, if_neg (by simpa using hx.ne), Nat.add_zero]
      rw [hlength] at hskip
      rw [assignCodes, if_pos rfl, codesFrom_cons_zero, hskip]
    · have hlt := hrest l List.mem_cons_self
      have hcode : next.getD l 0 = canonicalCode lens pre.length l := by
        rw [hnext l hpos hlt, canonicalCode, hlens, List.take_left]
      have hstep := ih (next := next.set l (next.getD l 0 + 1)) hlens'
        (fun x hx => by rw [List.length_set]; exact hrest x (List.mem_cons_of_mem _ hx)) fun x hx hlt' => by
          rw [List.length_set] at hlt'
          rw [List.count_append, List.count_singleton]
          by_cases hxl : x = l
          · subst hxl
            rw [List.getD_eq_getElem?_getD, List.getElem?_set_self hlt, Option.getD_some, hnext x hx hlt]
            simp [Nat.add_assoc]
          · rw [List.getD_eq_getElem?_getD, List.getElem?_set_ne (Ne.symm hxl), ← List.getD_eq_getElem?_getD,
              hnext x hx hlt', if_neg (by simpa using Ne.symm hxl), Nat.add_zero]
      rw [hlength] at hstep
      rw [assignCodes_cons hpos.ne', codesFrom_cons hpos.ne', hstep, hcode]
      simp only [List.forall_mem_cons]
      by_cases hfit : canonicalCode lens pre.length l < 2 ^ l
      · rw [if_neg (Nat.not_le.mpr hfit)]
        by_cases hall : ∀ x ∈ codesFrom lens rest (pre.length + 1), x.2.2 < 2 ^ x.2.1
        · rw [if_pos hall, if_pos ⟨hfit, hall⟩]
          rfl
        · rw [if_neg hall, if_neg fun h => hall h.2]
          rfl
      · rw [if_pos (Nat.not_lt.mp hfit), if_neg fun h => hfit h.1]

theorem mem_canonicalCodes {lens : List Nat} {v l c : Nat} : (v, l, c) ∈ canonicalCodes lens ↔
    lens[v]? = some l ∧ 0 < l ∧ c = canonicalCode lens v l := by
  simp only [canonicalCodes, codesFrom, List.mem_filterMap, Prod.exists, List.mem_zipIdx_iff_getElem?, symbolCode,
    Option.ite_none_left_eq_some, Option.some.injEq, Prod.mk.injEq]
  constructor
  · rintro ⟨l, v, hv, hl, rfl, rfl, rfl⟩
    exact ⟨hv, Nat.pos_of_ne_zero hl, rfl⟩
  · rintro ⟨hv, hl, rfl⟩
    exact ⟨l, v, hv, hl.ne', rfl, rfl, rfl⟩

/-- Assignment from the first codes: the canonical codes, or none if one does not fit. -/
theorem assignCodes_firstCodes {lens : List Nat} {m : Nat} (h : ∀ l ∈ lens, l ≤ m) [Decidable (CodesFit lens)] :
    assignCodes lens 0 (firstCodes lens m) = if CodesFit lens then some (canonicalCodes lens) else none := by
  have hlen : (firstCodes lens m).length = m + 1 := by simp [firstCodes]
  have hassign := assignCodes_eq (pre := []) (rest := lens) (next := firstCodes lens m) rfl
    (fun l hl => by rw [hlen]; exact Nat.lt_succ_of_le (h l hl)) fun l _ hlt => by
      rw [hlen] at hlt
      simp [firstCodes, List.getD_eq_getElem?_getD, List.getElem?_range hlt]
  refine hassign.trans (if_congr ?_ rfl rfl)
  constructor
  · exact fun hall v l hv hpos => hall (v, l, canonicalCode lens v l) (mem_canonicalCodes.mpr ⟨hv, hpos, rfl⟩)
  · rintro hfit ⟨v, l, c⟩ hx
    obtain ⟨hv, hpos, rfl⟩ := mem_canonicalCodes.mp hx
    exact hfit v l hv hpos

/-- The codes stand in symbol order. -/
theorem pairwise_canonicalCodes (lens : List Nat) : (canonicalCodes lens).Pairwise fun x y => x.1 < y.1 := by
  have hidx : (lens.zipIdx 0).Pairwise fun x y => x.2 < y.2 := by
    rw [← List.pairwise_map (f := Prod.snd) (R := (· < ·)), List.zipIdx_map_snd]
    exact List.pairwise_lt_range'
  refine List.Pairwise.filterMap _ (fun x y hxy a ha b hb => ?_) hidx
  have hfst : ∀ {x : Nat × Nat} {a}, a ∈ symbolCode lens x → a.1 = x.2 := by
    intro x a ha
    unfold symbolCode at ha
    split at ha
    · exact nomatch ha
    · cases ha; rfl
  rwa [hfst ha, hfst hb]

end Sys2Proof.Machine

namespace Sys2Proof.Machine

/-! ### The arena, by the bit strings that lead into it (rules R84, R87) -/

/-- The node a bit string leads to from the root, if its edges are there. -/
def pathTo (nodes : List Node) (q : List Bool) : Option Nat := q.foldlM (fun k b => (nodes.getD k {}).child b) 0

/-- The symbol of the node a bit string leads to. -/
def labelAt (nodes : List Node) (q : List Bool) : Option Nat :=
  (pathTo nodes q).bind fun k => (nodes.getD k {}).sym

/-- An arena in which every bit string has a node of its own, and leaves have no children. -/
structure ArenaOk (nodes : List Node) : Prop where
  bounded : ∀ q k, pathTo nodes q = some k → k < nodes.length
  inj : ∀ q q' k, pathTo nodes q = some k → pathTo nodes q' = some k → q = q'
  leaf : ∀ q b, labelAt nodes q ≠ none → pathTo nodes (q ++ [b]) = none

section Arena
variable {nodes : List Node} {p q : List Bool} {k c v : Nat} {b : Bool}

@[simp] theorem pathTo_nil (nodes : List Node) : pathTo nodes [] = some 0 := rfl

theorem pathTo_concat (nodes : List Node) (q : List Bool) (b : Bool) :
    pathTo nodes (q ++ [b]) = (pathTo nodes q).bind fun k => (nodes.getD k {}).child b := by
  simp [pathTo, List.foldlM_append, Option.bind_eq_bind]

theorem pathTo_concat_of_some (h : pathTo nodes p = some k) (b : Bool) :
    pathTo nodes (p ++ [b]) = (nodes.getD k {}).child b := by
  rw [pathTo_concat, h, Option.bind_some]

theorem labelAt_of_some (h : pathTo nodes p = some k) : labelAt nodes p = (nodes.getD k {}).sym := by
  rw [labelAt, h, Option.bind_some]

theorem labelAt_of_none (h : pathTo nodes p = none) : labelAt nodes p = none := by
  rw [labelAt, h, Option.bind_none]

/-- The beginnings of a string that leads to a node lead to nodes. -/
theorem pathTo_isSome_of_isPrefix (h : q <+: p) (hp : (pathTo nodes p).isSome) : (pathTo nodes q).isSome := by
  obtain ⟨rest, rfl⟩ := h
  induction rest using List.reverseRecOn with
  | nil => rwa [List.append_nil] at hp
  | append_singleton rest b ih =>
    refine ih ?_
    rw [← List.append_assoc, pathTo_concat] at hp
    exact Option.isSome_of_isSome_bind hp

/-- A walk answers the label of the string it reads (rule R87). -/
theorem treeSymbol_iff_labelAt (hok : ArenaOk nodes) (hk : pathTo nodes p = some k) (bits : List Bool) :
    treeSymbol nodes k bits = some v ↔ bits ≠ [] ∧ labelAt nodes (p ++ bits) = some v := by
  induction bits generalizing p k with
  | nil => simp [treeSymbol]
  | cons b bits ih =>
    have hsplit : p ++ b :: bits = (p ++ [b]) ++ bits := by simp
    rw [treeSymbol_cons_eq_some, ← pathTo_concat_of_some hk, hsplit]
    simp only [ne_eq, List.cons_ne_nil, not_false_eq_true, true_and]
    constructor
    · rintro ⟨c, hc, ⟨hleaf, rfl⟩ | ⟨_, hrest⟩⟩
      · rw [List.append_nil, labelAt_of_some hc, hleaf]
      · exact ((ih hc).mp hrest).2
    · intro hlabel
      have hend : (pathTo nodes ((p ++ [b]) ++ bits)).isSome := Option.isSome_iff_ne_none.mpr fun hnone => by
        rw [labelAt_of_none hnone] at hlabel
        exact nomatch hlabel
      obtain ⟨c, hc⟩ := Option.isSome_iff_exists.mp (pathTo_isSome_of_isPrefix (List.prefix_append ..) hend)
      refine ⟨c, hc, ?_⟩
      cases bits with
      | nil =>
        rw [List.append_nil, labelAt_of_some hc] at hlabel
        exact .inl ⟨hlabel, rfl⟩
      | cons b' bits =>
        refine .inr ⟨?_, (ih hc).mpr ⟨List.cons_ne_nil _ _, hlabel⟩⟩
        rw [← labelAt_of_some hc]
        by_contra hleaf
        have hnext := pathTo_isSome_of_isPrefix (q := (p ++ [b]) ++ [b']) ⟨bits, by simp⟩ hend
        rw [hok.leaf _ b' hleaf] at hnext
        exact nomatch hnext

/-! ### One new node (rule R84) -/

/-- The arena with a new node, as child `b` of node `k`. -/
def withChild (nodes : List Node) (k : Nat) (b : Bool) (sym : Option Nat) : List Node :=
  nodes.set k ((nodes.getD k {}).setChild b nodes.length) ++ [{ sym := sym }]

theorem length_withChild (nodes : List Node) (k : Nat) (b : Bool) (sym : Option Nat) :
    (withChild nodes k b sym).length = nodes.length + 1 := by simp [withChild]

theorem Node.child_setChild (n : Node) (b b' : Bool) (c : Nat) :
    (n.setChild b c).child b' = if b' = b then some c else n.child b' := by
  cases b <;> cases b' <;> rfl

theorem Node.sym_setChild (n : Node) (b : Bool) (c : Nat) : (n.setChild b c).sym = n.sym := by
  cases b <;> rfl

theorem getD_withChild {sym : Option Nat} (hk : k < nodes.length) (j : Nat) : (withChild nodes k b sym).getD j {} =
    if j = k then (nodes.getD k {}).setChild b nodes.length
    else if j = nodes.length then { sym := sym } else nodes.getD j {} := by
  rw [withChild, List.getD_eq_getElem?_getD]
  rcases Nat.lt_trichotomy j nodes.length with hlt | rfl | hgt
  · rw [List.getElem?_append_left (by simpa using hlt)]
    by_cases hj : j = k
    · subst hj
      rw [if_pos rfl, List.getElem?_set_self hk, Option.getD_some]
    · rw [if_neg hj, if_neg hlt.ne, List.getElem?_set_ne (Ne.symm hj), List.getD_eq_getElem?_getD]
  · rw [if_neg hk.ne', if_pos rfl, List.getElem?_append_right (by simp)]
    simp
  · rw [if_neg (by omega), if_neg hgt.ne', List.getElem?_eq_none (by simp; omega), List.getD_eq_getElem?_getD,
      List.getElem?_eq_none hgt.le]

/-- Besides the new node's string every string leads where it did. -/
theorem pathTo_withChild (hok : ArenaOk nodes) (hk : pathTo nodes p = some k)
    (hchild : (nodes.getD k {}).child b = none) (sym : Option Nat) (q : List Bool) :
    pathTo (withChild nodes k b sym) q = if q = p ++ [b] then some nodes.length else pathTo nodes q := by
  have hbound := hok.bounded p k hk
  have hnew : pathTo nodes (p ++ [b]) = none := (pathTo_concat_of_some hk b).trans hchild
  induction q using List.reverseRecOn with
  | nil => simp
  | append_singleton q b' ih =>
    rw [pathTo_concat, ih]
    split
    · next hq =>
      have hlonger : q ++ [b'] ≠ p ++ [b] := fun h => by
        have := congrArg List.length h
        have := congrArg List.length hq
        simp at *
        omega
      rw [Option.bind_some, getD_withChild hbound, if_neg hbound.ne', if_pos rfl, if_neg hlonger, pathTo_concat, hq,
        hnew]
      cases b' <;> rfl
    · cases hj : pathTo nodes q with
      | none =>
        have hne : q ++ [b'] ≠ p ++ [b] := fun h => by
          rw [(List.append_inj' h rfl).1, hk] at hj
          exact nomatch hj
        rw [if_neg hne, pathTo_concat, hj]
        rfl
      | some j =>
        have hjlt := hok.bounded q j hj
        have hsame : q ++ [b'] = p ++ [b] ↔ j = k ∧ b' = b := by
          constructor
          · intro h
            obtain ⟨rfl, hb⟩ := List.append_inj' h rfl
            exact ⟨Option.some.inj (hj.symm.trans hk), by simpa using hb⟩
          · rintro ⟨rfl, rfl⟩
            rw [hok.inj q p j hj hk]
        rw [Option.bind_some, getD_withChild hbound, pathTo_concat_of_some hj]
        by_cases hjk : j = k
        · subst hjk
          rw [if_pos rfl, Node.child_setChild]
          exact if_congr (by simp [hsame]) rfl rfl
        · rw [if_neg hjk, if_neg hjlt.ne, if_neg fun h => hjk (hsame.mp h).1]

/-- Besides the new node's string every string has the label it had. -/
theorem labelAt_withChild (hok : ArenaOk nodes) (hk : pathTo nodes p = some k)
    (hchild : (nodes.getD k {}).child b = none) (sym : Option Nat) (q : List Bool) :
    labelAt (withChild nodes k b sym) q = if q = p ++ [b] then sym else labelAt nodes q := by
  have hbound := hok.bounded p k hk
  rw [labelAt, pathTo_withChild hok hk hchild]
  split
  · rw [Option.bind_some, getD_withChild hbound, if_neg hbound.ne', if_pos rfl]
  · rw [labelAt]
    cases hj : pathTo nodes q with
    | none => rfl
    | some j =>
      rw [Option.bind_some, Option.bind_some, getD_withChild hbound]
      by_cases hjk : j = k
      · rw [if_pos hjk, Node.sym_setChild, hjk]
      · rw [if_neg hjk, if_neg (hok.bounded q j hj).ne]

/-- A new child of an internal node keeps the arena in order. -/
theorem ArenaOk.withChild (hok : ArenaOk nodes) (hk : pathTo nodes p = some k) (hlabel : labelAt nodes p = none)
    (hchild : (nodes.getD k {}).child b = none) (sym : Option Nat) : ArenaOk (withChild nodes k b sym) where
  bounded q j hj := by
    rw [length_withChild]
    rw [pathTo_withChild hok hk hchild] at hj
    split at hj
    · cases hj
      exact Nat.lt_succ_self _
    · exact Nat.lt_succ_of_lt (hok.bounded q j hj)
  inj q q' j hj hj' := by
    rw [pathTo_withChild hok hk hchild] at hj hj'
    split at hj <;> split at hj'
    · next h h' => rw [h, h']
    · cases hj
      exact absurd (hok.bounded q' _ hj') (Nat.lt_irrefl _)
    · cases hj'
      exact absurd (hok.bounded q _ hj) (Nat.lt_irrefl _)
    · exact hok.inj q q' j hj hj'
  leaf q b' hq := by
    rw [labelAt_withChild hok hk hchild] at hq
    rw [pathTo_withChild hok hk hchild]
    split at hq
    · next h =>
      have hne : q ++ [b'] ≠ p ++ [b] := fun h' => by
        have := congrArg List.length h'
        have := congrArg List.length h
        simp at *
        omega
      rw [if_neg hne, pathTo_concat, h, pathTo_concat_of_some hk, hchild]
      rfl
    · have hne : q ++ [b'] ≠ p ++ [b] := fun h' => by
        rw [(List.append_inj' h' rfl).1] at hq
        exact hq hlabel
      rw [if_neg hne]
      exact hok.leaf q b' hq

end Arena

/-! ### Insertion of one code (rules R84 to R86) -/

section Insert
variable {cap : Option Nat} {sym code i k c : Nat} {nodes nodes' : List Node} {p q : List Bool}

theorem insertCode_descend (hchild : (nodes.getD k {}).child (code.testBit i) = some c) (hi : i ≠ 0)
    (hsym : (nodes.getD c {}).sym = none) :
    insertCode cap sym code (i + 1) k nodes = insertCode cap sym code i c nodes := by
  simp only [insertCode, hchild, if_neg hi, hsym]
  rfl

/-- Insertion goes on below a child only if the child is an internal node and not the code's end. -/
theorem insertCode_child_some (hchild : (nodes.getD k {}).child (code.testBit i) = some c)
    (h : insertCode cap sym code (i + 1) k nodes = some nodes') :
    i ≠ 0 ∧ (nodes.getD c {}).sym = none ∧ insertCode cap sym code i c nodes = some nodes' := by
  simp only [insertCode, hchild] at h
  split_ifs at h with hi hsym
  exact ⟨hi, Option.not_isSome_iff_eq_none.mp hsym, h⟩

theorem insertCode_child_none (hchild : (nodes.getD k {}).child (code.testBit i) = none) :
    insertCode cap sym code (i + 1) k nodes =
      if (cap.any fun c => decide (c ≤ nodes.length)) = true then none
      else insertCode cap sym code i nodes.length
        (withChild nodes k (code.testBit i) (if i = 0 then some sym else none)) := by
  simp only [insertCode, hchild, addNode, List.length_set]
  split <;> rfl

/-- What an insertion of the string `w` for a symbol makes of the arena. -/
structure Inserted (nodes nodes' : List Node) (w : List Bool) (sym : Nat) : Prop where
  ok : ArenaOk nodes'
  fresh : pathTo nodes w = none
  path : ∀ q, (pathTo nodes' q).isSome ↔ (pathTo nodes q).isSome ∨ q <+: w
  label : ∀ q, labelAt nodes' q = if q = w then some sym else labelAt nodes q

/-- An insertion that answers adds the code's beginnings and its label, and nothing else. -/
theorem insertCode_inserted (hok : ArenaOk nodes) (hk : pathTo nodes p = some k) (hlabel : labelAt nodes p = none)
    (hi : 0 < i) (h : insertCode cap sym code i k nodes = some nodes') :
    Inserted nodes nodes' (p ++ valueBits i code) sym := by
  induction i generalizing k nodes p with
  | zero => exact absurd hi (Nat.lt_irrefl 0)
  | succ i ih =>
    have hsplit : p ++ valueBits (i + 1) code = (p ++ [code.testBit i]) ++ valueBits i code := by simp [valueBits]
    rw [hsplit]
    cases hchild : (nodes.getD k {}).child (code.testBit i) with
    | some c =>
      obtain ⟨hne, hsym, hrest⟩ := insertCode_child_some hchild h
      have hc : pathTo nodes (p ++ [code.testBit i]) = some c := (pathTo_concat_of_some hk _).trans hchild
      exact ih hok hc ((labelAt_of_some hc).trans hsym) (Nat.pos_of_ne_zero hne) hrest
    | none =>
      rw [insertCode_child_none hchild] at h
      split at h
      · exact nomatch h
      · have hnew : pathTo nodes (p ++ [code.testBit i]) = none := (pathTo_concat_of_some hk _).trans hchild
        have hpath := pathTo_withChild hok hk hchild (if i = 0 then some sym else none)
        have hlab := labelAt_withChild hok hk hchild (if i = 0 then some sym else none)
        have hok' := hok.withChild hk hlabel hchild (if i = 0 then some sym else none)
        have hsome : ∀ q, (pathTo (withChild nodes k (code.testBit i) (if i = 0 then some sym else none)) q).isSome ↔
            (pathTo nodes q).isSome ∨ q <+: p ++ [code.testBit i] := by
          intro q
          rw [hpath, List.prefix_concat_iff]
          split
          · next hq => simp [hq]
          · next hq =>
            refine ⟨.inl, fun hor => hor.elim id fun hpre => ?_⟩
            exact pathTo_isSome_of_isPrefix (hpre.resolve_left hq) (by rw [hk]; rfl)
        rcases Nat.eq_zero_or_pos i with rfl | hpos
        · cases h
          rw [valueBits, List.append_nil]
          exact ⟨hok', hnew, hsome, hlab⟩
        · rw [if_neg hpos.ne'] at hpath hlab hok' hsome h
          obtain ⟨hok'', hfresh, hpath'', hlabel''⟩ :=
            ih hok' (by rw [hpath, if_pos rfl]) (by rw [hlab, if_pos rfl]) hpos h
          refine ⟨hok'', ?_, fun q => ?_, fun q => ?_⟩
          · rw [hpath] at hfresh
            split at hfresh
            · exact nomatch hfresh
            · exact hfresh
          · rw [hpath'', hsome, or_assoc]
            refine or_congr_right ⟨fun hor => hor.elim (fun hq => hq.trans (List.prefix_append ..)) id, .inr⟩
          · rw [hlabel'', hlab]
            refine if_congr Iff.rfl rfl ?_
            split
            · next hq => rw [hq, labelAt_of_none hnew]
            · rfl

/-- Without a bound on the arena an insertion answers if no label stands on the code's way and the code's string leads
nowhere yet. -/
theorem insertCode_exists (hok : ArenaOk nodes) (hk : pathTo nodes p = some k) (hi : 0 < i)
    (hfresh : pathTo nodes (p ++ valueBits i code) = none)
    (hclear : ∀ q, q <+: p ++ valueBits i code → labelAt nodes q = none) :
    ∃ nodes', insertCode none sym code i k nodes = some nodes' := by
  induction i generalizing k nodes p with
  | zero => exact absurd hi (Nat.lt_irrefl 0)
  | succ i ih =>
    have hsplit : p ++ valueBits (i + 1) code = (p ++ [code.testBit i]) ++ valueBits i code := by simp [valueBits]
    rw [hsplit] at hfresh hclear
    have hbegin : labelAt nodes (p ++ [code.testBit i]) = none := hclear _ (List.prefix_append ..)
    have hroot : labelAt nodes p = none := hclear _ ((List.prefix_append ..).trans (List.prefix_append ..))
    cases hchild : (nodes.getD k {}).child (code.testBit i) with
    | some c =>
      have hc : pathTo nodes (p ++ [code.testBit i]) = some c := (pathTo_concat_of_some hk _).trans hchild
      have hne : i ≠ 0 := fun h0 => by
        subst h0
        rw [valueBits, List.append_nil, hc] at hfresh
        exact nomatch hfresh
      rw [labelAt_of_some hc] at hbegin
      rw [insertCode_descend hchild hne hbegin]
      exact ih hok hc (Nat.pos_of_ne_zero hne) hfresh hclear
    | none =>
      rw [insertCode_child_none hchild, Option.any_none, if_neg Bool.false_ne_true]
      rcases Nat.eq_zero_or_pos i with rfl | hpos
      · exact ⟨_, rfl⟩
      · rw [if_neg hpos.ne']
        have hpath := pathTo_withChild hok hk hchild none
        have hlab := labelAt_withChild hok hk hchild none
        have hlonger : (p ++ [code.testBit i]) ++ valueBits i code ≠ p ++ [code.testBit i] := fun h => by
          have := congrArg List.length h
          simp at this
          omega
        refine ih (hok.withChild hk hroot hchild none) (by rw [hpath, if_pos rfl]) hpos
          (by rw [hpath, if_neg hlonger, hfresh]) fun q hq => ?_
        rw [hlab]
        split
        · rfl
        · exact hclear q hq

/-- A bound on the arena changes an insertion only if the nodes do not fit it (rule R86). -/
theorem insertCode_capacity (h : insertCode none sym code i k nodes = some nodes') (capacity : Nat) :
    nodes.length ≤ nodes'.length ∧
      (nodes'.length ≤ capacity → insertCode (some capacity) sym code i k nodes = some nodes') ∧
      (nodes.length ≤ capacity → capacity < nodes'.length →
        insertCode (some capacity) sym code i k nodes = none) := by
  induction i generalizing k nodes with
  | zero =>
    cases h
    exact ⟨Nat.le_refl _, fun _ => rfl, fun hle hlt => absurd hle (Nat.not_le.mpr hlt)⟩
  | succ i ih =>
    cases hchild : (nodes.getD k {}).child (code.testBit i) with
    | some c =>
      obtain ⟨hne, hsym, hrest⟩ := insertCode_child_some hchild h
      rw [insertCode_descend hchild hne hsym]
      exact ih hrest
    | none =>
      rw [insertCode_child_none hchild, Option.any_none, if_neg Bool.false_ne_true] at h
      obtain ⟨hlen, hfits, hfull⟩ := ih h
      rw [length_withChild] at hlen hfull
      rw [insertCode_child_none hchild]
      simp only [Option.any_some, decide_eq_true_eq]
      refine ⟨by omega, fun hle => ?_, fun hle hlt => ?_⟩
      · rw [if_neg (by omega)]
        exact hfits hle
      · split
        · rfl
        · exact hfull (by omega) hlt

end Insert

/-! ### Insertion of every code (rules R81 to R86) -/

/-- The string of a code: its bits, most significant first. -/
abbrev codeBits (x : Nat × Nat × Nat) : List Bool := valueBits x.2.1 x.2.2

section InsertAll
variable {cap : Option Nat} {codes : List (Nat × Nat × Nat)} {nodes nodes' : List Node}

theorem insertCodes_cons (cap : Option Nat) (x : Nat × Nat × Nat) (codes : List (Nat × Nat × Nat))
    (nodes : List Node) : insertCodes cap (x :: codes) nodes =
      (insertCode cap x.1 x.2.2 x.2.1 0 nodes).bind (insertCodes cap codes) := rfl

theorem codeBits_ne_nil {x : Nat × Nat × Nat} (h : 0 < x.2.1) : codeBits x ≠ [] := fun hnil => by
  have := congrArg List.length hnil
  simp at this
  omega

/-- After the insertions the labels are the old ones and, at each code's string, its symbol. -/
theorem insertCodes_labels (hok : ArenaOk nodes) (hroot : labelAt nodes [] = none) (hpos : ∀ x ∈ codes, 0 < x.2.1)
    (h : insertCodes cap codes nodes = some nodes') : ArenaOk nodes' ∧ labelAt nodes' [] = none ∧
      ∀ q v, labelAt nodes' q = some v ↔ labelAt nodes q = some v ∨ ∃ x ∈ codes, x.1 = v ∧ q = codeBits x := by
  induction codes generalizing nodes with
  | nil =>
    cases h
    exact ⟨hok, hroot, fun q v => by simp⟩
  | cons x codes ih =>
    rw [insertCodes_cons] at h
    obtain ⟨nodes₁, hfirst, hrest⟩ := Option.bind_eq_some_iff.mp h
    obtain ⟨hpos₁, hpos'⟩ := List.forall_mem_cons.mp hpos
    obtain ⟨hok₁, hfresh, -, hlabel₁⟩ := insertCode_inserted hok (pathTo_nil nodes) hroot hpos₁ hfirst
    rw [List.nil_append] at hfresh hlabel₁
    obtain ⟨hok', hroot', hlabels⟩ := ih hok₁ (by rw [hlabel₁, if_neg (codeBits_ne_nil hpos₁).symm, hroot]) hpos' hrest
    refine ⟨hok', hroot', fun q v => ?_⟩
    rw [hlabels, hlabel₁]
    simp only [List.mem_cons, exists_eq_or_imp]
    split
    · next hq => simp [hq, labelAt_of_none hfresh]
    · next hq => simp [hq]

/-- Without a bound on the arena the insertions answer if no code's string begins another. -/
theorem insertCodes_exists (hok : ArenaOk nodes) (hroot : labelAt nodes [] = none) (hpos : ∀ x ∈ codes, 0 < x.2.1)
    (hpair : codes.Pairwise fun x y => ¬ codeBits x <+: codeBits y ∧ ¬ codeBits y <+: codeBits x)
    (hnew : ∀ x ∈ codes, pathTo nodes (codeBits x) = none ∧ ∀ q, q <+: codeBits x → labelAt nodes q = none) :
    ∃ nodes', insertCodes none codes nodes = some nodes' := by
  induction codes generalizing nodes with
  | nil => exact ⟨nodes, rfl⟩
  | cons x codes ih =>
    obtain ⟨hpos₁, hpos'⟩ := List.forall_mem_cons.mp hpos
    obtain ⟨⟨hfresh, hclear⟩, hnew'⟩ := List.forall_mem_cons.mp hnew
    obtain ⟨hx, hpair'⟩ := List.pairwise_cons.mp hpair
    obtain ⟨nodes₁, hfirst⟩ := insertCode_exists (sym := x.1) hok (pathTo_nil nodes) hpos₁ hfresh hclear
    obtain ⟨hok₁, -, hpath₁, hlabel₁⟩ := insertCode_inserted hok (pathTo_nil nodes) hroot hpos₁ hfirst
    rw [List.nil_append] at hpath₁ hlabel₁
    rw [insertCodes_cons, hfirst, Option.bind_some]
    refine ih hok₁ (by rw [hlabel₁, if_neg (codeBits_ne_nil hpos₁).symm, hroot]) hpos' hpair' fun y hy => ?_
    obtain ⟨hxy, hyx⟩ := hx y hy
    obtain ⟨hfreshy, hcleary⟩ := hnew' y hy
    refine ⟨?_, fun q hq => ?_⟩
    · rw [← Option.not_isSome_iff_eq_none, hpath₁, hfreshy]
      simpa using hyx
    · rw [hlabel₁, if_neg fun heq : q = codeBits x => hxy (heq ▸ hq), hcleary q hq]

/-- A bound on the arena changes the insertions only if the nodes do not fit it (rule R86). -/
theorem insertCodes_capacity (h : insertCodes none codes nodes = some nodes') (capacity : Nat) :
    nodes.length ≤ nodes'.length ∧
      (nodes'.length ≤ capacity → insertCodes (some capacity) codes nodes = some nodes') ∧
      (nodes.length ≤ capacity → capacity < nodes'.length → insertCodes (some capacity) codes nodes = none) := by
  induction codes generalizing nodes with
  | nil =>
    cases h
    exact ⟨Nat.le_refl _, fun _ => rfl, fun hle hlt => absurd hle (Nat.not_le.mpr hlt)⟩
  | cons x codes ih =>
    rw [insertCodes_cons] at h
    obtain ⟨nodes₁, hfirst, hrest⟩ := Option.bind_eq_some_iff.mp h
    obtain ⟨hlen₁, hfits₁, hfull₁⟩ := insertCode_capacity hfirst capacity
    obtain ⟨hlen, hfits, hfull⟩ := ih hrest
    rw [insertCodes_cons]
    refine ⟨hlen₁.trans hlen, fun hle => ?_, fun hle hlt => ?_⟩
    · rw [hfits₁ (hlen.trans hle), Option.bind_some, hfits hle]
    · rcases Nat.lt_or_ge capacity nodes₁.length with hlt₁ | hle₁
      · rw [hfull₁ hle hlt₁, Option.bind_none]
      · rw [hfits₁ hle₁, Option.bind_some, hfull hle₁ hlt]

end InsertAll

/-! ### The tree of a table's lengths (rules R78 to R86) -/

section Build
variable {cfg : Config} {lens : List Nat} {nodes : List Node}

/-- A lone root: only the empty string leads to a node. -/
theorem pathTo_root {q : List Bool} (h : q ≠ []) : pathTo [{}] q = none := by
  obtain ⟨b, rest, rfl⟩ := List.exists_cons_of_ne_nil h
  have hchild : (([{}] : List Node).getD 0 {}).child b = none := by cases b <;> rfl
  have hone : pathTo [{}] [b] = none := (pathTo_concat_of_some (p := []) rfl b).trans hchild
  by_contra hsome
  have hbegin := pathTo_isSome_of_isPrefix (q := [b]) ⟨rest, rfl⟩ (Option.isSome_iff_ne_none.mpr hsome)
  rw [hone] at hbegin
  exact nomatch hbegin

theorem labelAt_root (q : List Bool) : labelAt [{}] q = none := by
  by_cases h : q = []
  · subst h
    rfl
  · exact labelAt_of_none (pathTo_root h)

theorem arenaOk_root : ArenaOk [{}] := by
  have hnil : ∀ q k, pathTo [{}] q = some k → q = [] ∧ k = 0 := by
    intro q k hk
    by_cases h : q = []
    · subst h
      cases hk
      exact ⟨rfl, rfl⟩
    · rw [pathTo_root h] at hk
      exact nomatch hk
  refine ⟨fun q k hk => ?_, fun q q' k hk hk' => ?_, fun q b hlabel => absurd (labelAt_root q) hlabel⟩
  · rw [(hnil q k hk).2]
    exact Nat.one_pos
  · rw [(hnil q k hk).1, (hnil q' k hk').1]

/-- A build is the insertion of the canonical codes into a lone root, if the codes fit. -/
theorem buildTree_eq (h : ∀ l ∈ lens, l ≤ cfg.maxCodeLen) [Decidable (CodesFit lens)] : buildTree cfg lens =
    if CodesFit lens then
      (addNode cfg.arenaCapacity [] {}).bind (insertCodes cfg.arenaCapacity (canonicalCodes lens))
    else none := by
  rw [buildTree, assignCodes_firstCodes h]
  split <;> rfl

theorem canonicalCodes_pos (lens : List Nat) : ∀ x ∈ canonicalCodes lens, 0 < x.2.1 := by
  rintro ⟨v, l, c⟩ hx
  exact (mem_canonicalCodes.mp hx).2.1

/-- A build that answers inserted the codes into the root alone. -/
theorem insertCodes_of_buildTree (h : ∀ l ∈ lens, l ≤ cfg.maxCodeLen) (hbuild : buildTree cfg lens = some nodes) :
    insertCodes cfg.arenaCapacity (canonicalCodes lens) [{}] = some nodes := by
  classical
  rw [buildTree_eq h] at hbuild
  split at hbuild
  · obtain ⟨root, hroot, hrest⟩ := Option.bind_eq_some_iff.mp hbuild
    unfold addNode at hroot
    split at hroot
    · exact nomatch hroot
    · cases hroot
      exact hrest
  · exact nomatch hbuild

/-- In a built tree a string's label is the symbol whose canonical code it is. -/
theorem labelAt_of_buildTree (h : ∀ l ∈ lens, l ≤ cfg.maxCodeLen) (hbuild : buildTree cfg lens = some nodes) :
    ArenaOk nodes ∧ labelAt nodes [] = none ∧ ∀ q v, labelAt nodes q = some v ↔
      ∃ l, lens[v]? = some l ∧ 0 < l ∧ q = valueBits l (canonicalCode lens v l) := by
  obtain ⟨hok, hroot, hlabels⟩ := insertCodes_labels arenaOk_root (labelAt_root []) (canonicalCodes_pos lens)
    (insertCodes_of_buildTree h hbuild)
  refine ⟨hok, hroot, fun q v => ?_⟩
  rw [hlabels, labelAt_root]
  simp only [reduceCtorEq, false_or, Prod.exists, mem_canonicalCodes]
  constructor
  · rintro ⟨v, l, c, ⟨hv, hl, rfl⟩, rfl, rfl⟩
    exact ⟨l, hv, hl, rfl⟩
  · rintro ⟨l, hv, hl, rfl⟩
    exact ⟨v, l, _, ⟨hv, hl, rfl⟩, rfl, rfl⟩

/-- Two codes of a table whose codes fit do not begin one another. -/
theorem pairwise_codeBits (hfit : CodesFit lens) :
    (canonicalCodes lens).Pairwise fun x y => ¬ codeBits x <+: codeBits y ∧ ¬ codeBits y <+: codeBits x := by
  refine (pairwise_canonicalCodes lens).imp_of_mem ?_
  rintro ⟨v, l, c⟩ ⟨v', l', c'⟩ hx hy hlt
  obtain ⟨hv, hl, rfl⟩ := mem_canonicalCodes.mp hx
  obtain ⟨hv', hl', rfl⟩ := mem_canonicalCodes.mp hy
  exact ⟨canonicalCode_not_isPrefix hfit hlt.ne hv hv' hl hl', canonicalCode_not_isPrefix hfit hlt.ne' hv' hv hl' hl⟩

/-- Codes that fit have a tree, without a bound on the arena. -/
theorem insertCodes_canonicalCodes (hfit : CodesFit lens) :
    ∃ nodes, insertCodes none (canonicalCodes lens) [{}] = some nodes :=
  insertCodes_exists arenaOk_root (labelAt_root []) (canonicalCodes_pos lens) (pairwise_codeBits hfit) fun x hx =>
    ⟨pathTo_root (codeBits_ne_nil (canonicalCodes_pos lens x hx)), fun q _ => labelAt_root q⟩

/-- The build under an arena bound, from the tree without one (rule R86). -/
theorem buildTree_of_unbounded (h : ∀ l ∈ lens, l ≤ cfg.maxCodeLen)
    (htree : buildTree { cfg with arenaCapacity := none } lens = some nodes) :
    ((∀ c ∈ cfg.arenaCapacity, nodes.length ≤ c) → buildTree cfg lens = some nodes) ∧
      (∀ c, cfg.arenaCapacity = some c → c < nodes.length → buildTree cfg lens = none) := by
  classical
  have hcodes : CodesFit lens := by
    by_contra hnot
    rw [buildTree_eq (cfg := { cfg with arenaCapacity := none }) h, if_neg hnot] at htree
    exact nomatch htree
  have hinsert := insertCodes_of_buildTree (cfg := { cfg with arenaCapacity := none }) h htree
  rw [buildTree_eq h, if_pos hcodes]
  cases hcap : cfg.arenaCapacity with
  | none => exact ⟨fun _ => hinsert, nofun⟩
  | some capacity =>
    obtain ⟨hlen, hfits, hfull⟩ := insertCodes_capacity hinsert capacity
    rw [List.length_singleton] at hlen hfull
    refine ⟨fun hle => ?_, fun c hc hlt => ?_⟩
    · have hle' := hle capacity rfl
      have hroot : addNode (some capacity) [] {} = some [{}] := if_neg (by simp; omega)
      rw [hroot, Option.bind_some, hfits hle']
    · cases hc
      rcases Nat.eq_zero_or_pos capacity with rfl | hpos
      · rfl
      · have hroot : addNode (some capacity) [] {} = some [{}] := if_neg (by simp; omega)
        rw [hroot, Option.bind_some, hfull hpos hlt]

/-- Lengths with a Kraft sum of at most 1 have a tree without a bound on the arena. -/
theorem buildTree_of_kraftSum_le (h : ∀ l ∈ lens, l ≤ cfg.maxCodeLen)
    (hsum : kraftSum cfg.maxCodeLen lens ≤ 2 ^ cfg.maxCodeLen) :
    ∃ nodes, buildTree { cfg with arenaCapacity := none } lens = some nodes := by
  classical
  have hfit := (codesFit_iff h).mpr (codesUsed_eq_kraftSum h ▸ hsum)
  obtain ⟨nodes, hnodes⟩ := insertCodes_canonicalCodes hfit
  exact ⟨nodes, (buildTree_eq (cfg := { cfg with arenaCapacity := none }) h).trans ((if_pos hfit).trans hnodes)⟩

/-- Over-subscribed lengths have no tree (rule R81). -/
theorem buildTree_of_oversubscribed (h : ∀ l ∈ lens, l ≤ cfg.maxCodeLen)
    (hsum : 2 ^ cfg.maxCodeLen < kraftSum cfg.maxCodeLen lens) : buildTree cfg lens = none := by
  classical
  have hnot : ¬ CodesFit lens := fun hfit =>
    Nat.not_le.mpr hsum (codesUsed_eq_kraftSum h ▸ (codesFit_iff h).mp hfit)
  rw [buildTree_eq h, if_neg hnot]

end Build

section HtBuild
variable {s : State} {t : TableId}

theorem htBuildOp_of_tree {nodes : List Node} (h : buildTree s.cfg (s.table t).len = some nodes) :
    htBuildOp t s = .ok () (s.setTable t { s.table t with node := nodes }) := by
  unfold htBuildOp
  rw [h]

theorem htBuildOp_of_none (h : buildTree s.cfg (s.table t).len = none) :
    htBuildOp t s = .error (.error .huffmanTableCorrupt) s := by
  unfold htBuildOp
  rw [h]

end HtBuild

/-- Settles O21: the codes fit exactly when the Kraft sum is at most 1, and codes that fit insert without a
collision. -/
theorem buildRefusesExactlyOversubscribed : Obligations.BuildRefusesExactlyOversubscribed := by
  intro t s hlens
  refine ⟨fun hsum => ?tree, fun hsum => ?refused⟩
  case tree =>
    obtain ⟨nodes, htree⟩ := buildTree_of_kraftSum_le hlens hsum
    obtain ⟨hfits, hfull⟩ := buildTree_of_unbounded hlens htree
    exact ⟨nodes, htree, fun hle => ⟨hfits hle, runOp_of_ok (htBuildOp_of_tree (hfits hle))⟩,
      fun c hc hlt => runOp_of_error (htBuildOp_of_none (hfull c hc hlt))⟩
  case refused => exact runOp_of_error (htBuildOp_of_none (buildTree_of_oversubscribed hlens hsum))

/-- Settles O22: the walk answers the label of the string it reads, and the labels are the canonical codes'. -/
theorem treeDecodesTheCanonicalCode : Obligations.TreeDecodesTheCanonicalCode := by
  intro cfg lens nodes hlens hbuild bits v
  obtain ⟨hok, hroot, hlabels⟩ := labelAt_of_buildTree hlens hbuild
  rw [treeSymbol_iff_labelAt hok (pathTo_nil nodes), List.nil_append, hlabels, ne_eq, and_iff_right_iff_imp]
  rintro ⟨l, -, hl, rfl⟩ hnil
  exact codeBits_ne_nil (x := (v, l, canonicalCode lens v l)) hl hnil

end Sys2Proof.Machine

namespace Sys2Proof.Machine

/-! ## HT_LOAD (41_huffman_table.md section 1) -/

/-! ### Bits of IN that spell given bits, as far as a limit -/

/-- The bits of IN from bit `q` on are the given ones, as far as bit `limit`. -/
def State.Spells (s : State) (lo q limit : Nat) (bits : List Bool) : Prop :=
  ∀ k b, bits[k]? = some b → q + k < limit → s.streamBit lo (q + k) = b

section Spells
variable {s : State} {lo q limit n m : Nat} {bits : List Bool}

theorem State.streamBits_add (s : State) (lo q n m : Nat) :
    s.streamBits lo q (n + m) = s.streamBits lo q n ++ s.streamBits lo (q + n) m := by
  induction n generalizing q with
  | zero => simp [State.streamBits]
  | succ n ih =>
    rw [Nat.succ_add, State.streamBits, State.streamBits, ih, show q + 1 + n = q + (n + 1) by omega]
    rfl

theorem State.getElem?_streamBits (s : State) (lo q : Nat) {n k : Nat} (h : k < n) :
    (s.streamBits lo q n)[k]? = some (s.streamBit lo (q + k)) := by
  obtain ⟨d, rfl⟩ := Nat.exists_eq_add_of_lt h
  rw [Nat.add_assoc, State.streamBits_add, List.getElem?_append_right (by simp)]
  simp [State.streamBits]

/-- Bits that are present spell themselves, whatever the limit. -/
theorem State.spells_of_eq (h : s.streamBits lo q bits.length = bits) (limit : Nat) :
    s.Spells lo q limit bits := by
  intro k b hk _
  have hbit := State.getElem?_streamBits s lo q (List.getElem?_eq_some_iff.mp hk).1
  rw [h, hk] at hbit
  exact (Option.some.inj hbit).symm

/-- Bits that are present as far as the limit. -/
theorem State.spells_of_take (h : s.streamBits lo q (limit - q) = bits.take (limit - q)) :
    s.Spells lo q limit bits := by
  intro k b hk hlt
  have hin : k < limit - q := by omega
  rw [← List.getElem?_take_of_lt hin, ← h, State.getElem?_streamBits _ _ _ hin] at hk
  exact Option.some.inj hk

theorem State.Spells.append_left {bits' : List Bool} (h : s.Spells lo q limit (bits ++ bits')) :
    s.Spells lo q limit bits := fun k b hk hlt =>
  h k b (by rw [List.getElem?_append_left (List.getElem?_eq_some_iff.mp hk).1, hk]) hlt

theorem State.Spells.append_right {bits' : List Bool} (h : s.Spells lo q limit (bits ++ bits')) :
    s.Spells lo (q + bits.length) limit bits' := fun k b hk hlt => by
  rw [Nat.add_assoc] at hlt ⊢
  exact h (bits.length + k) b (by rw [List.getElem?_append_right (by omega), Nat.add_sub_cancel_left, hk]) hlt

theorem State.Spells.head {b : Bool} (h : s.Spells lo q limit (b :: bits)) (hlt : q < limit) :
    s.streamBit lo q = b := h 0 b rfl hlt

theorem State.Spells.tail {b : Bool} (h : s.Spells lo q limit (b :: bits)) : s.Spells lo (q + 1) limit bits :=
  State.Spells.append_right (bits := [b]) h

/-- Bits that end by the limit are the stream's. -/
theorem State.Spells.eq (h : s.Spells lo q limit bits) (hfits : q + bits.length ≤ limit) :
    s.streamBits lo q bits.length = bits := by
  refine List.ext_getElem? fun k => ?_
  rcases Nat.lt_or_ge k bits.length with hlt | hge
  · rw [State.getElem?_streamBits _ _ _ hlt, List.getElem?_eq_getElem hlt,
      h k _ (List.getElem?_eq_getElem hlt) (by omega)]
  · rw [List.getElem?_eq_none hge, List.getElem?_eq_none (by simpa using hge)]

/-- A field that ends by the limit has the value its bits spell. -/
theorem State.Spells.value {w v : Nat} (h : s.Spells lo q limit (valueBits w v)) (hfits : q + w ≤ limit)
    (hv : v < 2 ^ w) : bitsValue (s.streamBits lo q w) = v := by
  have heq := h.eq (by rwa [length_valueBits])
  rw [length_valueBits] at heq
  rw [heq, bitsValue_valueBits_of_lt hv]

/-- The fields one behind the other hold the values their bits spell. -/
theorem State.Spells.fieldValues {w : Nat} {values : List Nat}
    (h : s.Spells lo q limit (values.flatMap (valueBits w))) (hfits : q + values.length * w ≤ limit)
    (hvalues : ∀ v ∈ values, v < 2 ^ w) : s.fieldValues lo q w values.length = values := by
  induction values generalizing q with
  | nil => rfl
  | cons v values ih =>
    rw [List.length_cons, Nat.succ_mul] at hfits
    obtain ⟨hv, hrest⟩ := List.forall_mem_cons.mp hvalues
    rw [List.flatMap_cons] at h
    have htail := h.append_right
    rw [length_valueBits] at htail
    rw [List.length_cons, State.fieldValues_succ, h.append_left.value (by omega) hv, ih htail (by omega) hrest]

end Spells

theorem length_flatMap_valueBits (w : Nat) (values : List Nat) :
    (values.flatMap (valueBits w)).length = values.length * w := by
  induction values with
  | nil => simp
  | cons v values ih => rw [List.flatMap_cons, List.length_append, length_valueBits, ih, List.length_cons]; ring

/-! ### One run of a description (rules R58, R76, R77) -/

/-- Whether the run is of "equal lengths": its tag bit. -/
def Run.tag : Run → Bool
  | .equal _ _ => true
  | .set _ => false

/-- What a run's count field leaves out: COUNT + 2 symbols for "equal lengths", COUNT + 1 for "set of lengths". -/
def runOffset (equal : Bool) : Nat := if equal then 2 else 1

/-- How a run reads its lengths. -/
def runFields (equal : Bool) : Config → Nat → Op (List Nat) := if equal then readOneLen else readEachLen

/-- The bits of a run's length fields. -/
def Run.lenBits (cfg : Config) : Run → List Bool
  | .equal _ len => valueBits cfg.tableLenBits len
  | .set lens => lens.flatMap (valueBits cfg.tableLenBits)

theorem Run.bits_eq (cfg : Config) (run : Run) : run.bits cfg =
    runHead cfg run.tag (run.lens.length - runOffset run.tag) ++ run.lenBits cfg := by
  cases run with
  | equal count len => simp [Run.bits, runHead, Run.tag, Run.lens, runOffset, Run.lenBits]
  | set lens => simp [Run.bits, runHead, Run.tag, Run.lens, runOffset, Run.lenBits]

/-- A run's count is at least what its field leaves out, and the rest fits the field. -/
theorem Run.count_fits {cfg : Config} {run : Run} (h : run.fits cfg) :
    runOffset run.tag ≤ run.lens.length ∧ run.lens.length - runOffset run.tag < 2 ^ cfg.runCountBits := by
  cases run with
  | equal count len =>
    obtain ⟨hlow, hhigh, -⟩ := h
    simp only [runOffset, Run.tag, Run.lens, List.length_replicate, if_true]
    omega
  | set lens =>
    obtain ⟨hlow, hhigh, -⟩ := h
    simp only [runOffset, Run.tag, Run.lens, Bool.false_eq_true, if_false]
    omega

/-- Every length a run gives fits its field. -/
theorem Run.len_lt {cfg : Config} {run : Run} (h : run.fits cfg) : ∀ l ∈ run.lens, l < 2 ^ cfg.tableLenBits := by
  cases run with
  | equal count len =>
    intro l hl
    rw [List.eq_of_mem_replicate hl]
    exact h.2.2
  | set lens => exact h.2.2

@[simp] theorem length_runHead (cfg : Config) (equal : Bool) (field : Nat) :
    (runHead cfg equal field).length = 1 + cfg.runCountBits := by
  simp [runHead, Nat.add_comm]

section RunFields
variable {s : State} {r : BitReader}

/-- The length fields of a run that spells its own give its lengths. -/
theorem runFields_reads (hc : s.inCovered) (hok : s.ReaderOk r) (run : Run) : ∃ lens,
    s.Reads r (runFields run.tag s.cfg run.lens.length) (run.lenBits s.cfg).length lens ∧
      (run.fits s.cfg → s.Spells r.lo r.pos r.limit (run.lenBits s.cfg) →
        r.pos + (run.lenBits s.cfg).length ≤ r.limit → lens = run.lens) := by
  cases run with
  | equal count len =>
    rw [Run.lenBits, length_valueBits, Run.lens, List.length_replicate]
    refine ⟨_, (readBits_reads hc hok).bind_pure _, fun hfits hspells hroom => ?_⟩
    rw [hspells.value hroom hfits.2.2]
  | set lens =>
    rw [Run.lenBits, length_flatMap_valueBits]
    refine ⟨_, readLens_reads hc hok _ _, fun hfits hspells hroom => ?_⟩
    exact hspells.fieldValues hroom hfits.2.2

end RunFields

/-- One run of a description: its tag, then the run of its kind. -/
def taggedRun (t : TableId) (i : Nat) : Op Nat := do
  let tag ← readBits 1
  if tag = 1 then runEqualOp t i else runSetOp t i

/-- The run of a kind. -/
def runOfKind (t : TableId) (i : Nat) (equal : Bool) : Op Nat := giveRun t i (runOffset equal) (runFields equal)

theorem taggedRun_eq (t : TableId) (i : Nat) :
    taggedRun t i = readBits 1 >>= fun tag => runOfKind t i (tag = 1) := by
  unfold taggedRun
  refine congrArg (readBits 1 >>= ·) (funext fun tag => ?_)
  split
  · next h => simp only [h, decide_true]; exact runEqualOp_eq_giveRun t i
  · next h => simp only [h, decide_false]; exact runSetOp_eq_giveRun t i

theorem runsOp_succ_of_lt {t : TableId} {i : Nat} {s : State} (h : i < (s.table t).size) (fuel : Nat) :
    runsOp t (fuel + 1) i s = (taggedRun t i >>= runsOp t fuel) s := by
  simp only [runsOp, taggedRun, Op.bind_apply, Op.get_apply, Op.ite_apply, if_pos h]
  cases readBits 1 s with
  | error e u => rfl
  | ok tag u => dsimp only; split_ifs <;> rfl

/-- No further run is read once every symbol has a length. -/
theorem runsOp_of_le {t : TableId} {i : Nat} {s : State} (h : (s.table t).size ≤ i) (fuel : Nat) :
    runsOp t fuel i s = .ok () s := by
  cases fuel with
  | zero => rfl
  | succ fuel => simp [runsOp, Nat.not_lt.mpr h]

/-! ### A table that is being loaded -/

/-- The state in which a table's first lengths have been given, and the others are 0. -/
def State.loading (s : State) (t : TableId) (size : Nat) (given : List Nat) : State :=
  s.setTable t { size := size, len := given ++ List.replicate (size - given.length) 0, node := [] }

section Loading
variable {s : State} {t : TableId} {size i : Nat} {given : List Nat} {r : BitReader}

@[simp] theorem State.table_loading (s : State) (t : TableId) (size : Nat) (given : List Nat) :
    (s.loading t size given).table t =
      { size := size, len := given ++ List.replicate (size - given.length) 0, node := [] } := by
  simp [State.loading]

@[simp] theorem State.cfg_loading (s : State) (t : TableId) (size : Nat) (given : List Nat) :
    (s.loading t size given).cfg = s.cfg := by simp [State.loading]

@[simp] theorem State.inLen_loading (s : State) (t : TableId) (size : Nat) (given : List Nat) :
    (s.loading t size given).inLen = s.inLen := by simp [State.loading]

@[simp] theorem State.inByte_loading (s : State) (t : TableId) (size : Nat) (given : List Nat) (a : Nat) :
    (s.loading t size given).inByte a = s.inByte a := by
  simp [State.loading, State.inByte]

@[simp] theorem State.streamBit_loading (s : State) (t : TableId) (size : Nat) (given : List Nat) (lo q : Nat) :
    (s.loading t size given).streamBit lo q = s.streamBit lo q := by
  simp [State.streamBit]

/-- A table's contents are not among what a reader fits. -/
theorem State.readerOk_loading : (s.loading t size given).ReaderOk r ↔ s.ReaderOk r := by
  constructor
  · rintro ⟨h1, h2, h3, h4, h5, h6, h7⟩
    exact ⟨h1, h2, by simpa using h3, h4, h5, h6, by simpa using h7⟩
  · rintro ⟨h1, h2, h3, h4, h5, h6, h7⟩
    exact ⟨h1, h2, by simpa using h3, h4, h5, h6, by simpa using h7⟩

/-- New lengths behind the given ones. -/
theorem overwrite_given (size : Nat) (given new : List Nat) :
    overwrite (given ++ List.replicate (size - given.length) 0) given.length new =
      (given ++ new) ++ List.replicate (size - (given ++ new).length) 0 := by
  rw [overwrite, List.take_left, ← List.drop_drop, List.drop_left, List.drop_replicate, List.length_append, Nat.sub_sub]

theorem State.setLens_loading (new : List Nat) (r : BitReader) :
    ((s.loading t size given).setReader r).setLens t given.length new =
      (s.loading t size (given ++ new)).setReader r := by
  unfold State.setLens
  rw [State.table_setReader, State.table_loading]
  dsimp only
  rw [overwrite_given]
  cases t <;> rfl

/-- What an error leaves does not depend on the table and the reader it finds (rule R136). -/
theorem State.raise_loading (s : State) (t : TableId) (size : Nat) (given : List Nat) (r : BitReader) (e : ErrCode) :
    ((s.loading t size given).setReader r).raise e = s.raise e := by
  cases t <;> rfl

end Loading

/-! ### The runs of a description, one after another (rule R75) -/

section TaggedRun
variable {s : State} {t : TableId} {i : Nat} {r : BitReader} {run : Run}

/-- The tag bit chooses the kind of the run behind it. -/
theorem taggedRun_run (hc : s.inCovered) (hok : s.ReaderOk r) (hpos : r.pos < r.limit) (t : TableId) (i : Nat) :
    ∃ r', s.ReaderOk r' ∧ r.Moved r' 1 ∧
      taggedRun t i (s.setReader r) = runOfKind t i (s.streamBit r.lo r.pos) (s.setReader r') := by
  obtain ⟨r', hop, hok', hmoved⟩ := (readBits_reads hc hok (n := 1)).takes hpos
  have hbit : decide (bitsValue (s.streamBits r.lo r.pos 1) = 1) = s.streamBit r.lo r.pos := by
    cases h : s.streamBit r.lo r.pos <;> simp [State.streamBits, bitsValue, h]
  exact ⟨r', hok', hmoved, by rw [taggedRun_eq, Op.bind_apply, hop]; dsimp only; rw [hbit]⟩

/-- A run that is present and gives no length past the last symbol writes its lengths. -/
theorem taggedRun_ok (hc : s.inCovered) (hok : s.ReaderOk r) (hfits : run.fits s.cfg)
    (hspells : s.Spells r.lo r.pos r.limit (run.bits s.cfg)) (hroom : r.pos + (run.bits s.cfg).length ≤ r.limit)
    (hsize : i + run.lens.length ≤ (s.table t).size) :
    ∃ r', taggedRun t i (s.setReader r) = .ok (i + run.lens.length) ((s.setReader r').setLens t i run.lens) ∧
      s.ReaderOk r' ∧ r.Moved r' (run.bits s.cfg).length := by
  obtain ⟨hcount, hfield⟩ := run.count_fits hfits
  rw [Run.bits_eq] at hspells hroom ⊢
  rw [List.length_append, length_runHead] at hroom ⊢
  have hhead := hspells.append_left
  have hlens := hspells.append_right
  rw [length_runHead] at hlens
  obtain ⟨r₁, hok₁, hmoved₁, htag⟩ := taggedRun_run hc hok (by omega) t i
  rw [hhead.head (by omega)] at htag
  have hsymbols : s.runSymbols r₁ (runOffset run.tag) = run.lens.length := by
    rw [State.runSymbols, hmoved₁.lo, hmoved₁.pos, hhead.tail.value (by omega) hfield]
    omega
  have hgive := giveRun_ok (t := t) (i := i) (k := runOffset run.tag) (fields := runFields run.tag)
    (m := (run.lenBits s.cfg).length) (lens := run.lens) hc hok₁ (by rw [hmoved₁.pos, hmoved₁.limit]; omega)
    (by rw [hsymbols]; exact hsize) fun r₂ hok₂ hmoved₂ => by
      have hmoved := hmoved₁.trans hmoved₂
      rw [hsymbols]
      obtain ⟨lens, hreads, hvalues⟩ := runFields_reads hc hok₂ run
      rw [hmoved.lo, hmoved.pos, hmoved.limit, ← Nat.add_assoc] at hvalues
      rw [← Nat.add_assoc] at hlens
      have htakes := hreads.takes (by rw [hmoved.pos, hmoved.limit]; omega)
      rwa [hvalues hfits hlens (by omega)] at htakes
  rw [hsymbols] at hgive
  obtain ⟨r', hop, hok', hmoved'⟩ := hgive
  have hmoved := hmoved₁.trans hmoved'
  rw [← Nat.add_assoc] at hmoved
  exact ⟨r', htag.trans hop, hok', hmoved⟩

/-- A run that the limit cuts raises TruncatedInput. -/
theorem taggedRun_raises_of_cut (hc : s.inCovered) (hok : s.ReaderOk r) (hfits : run.fits s.cfg)
    (hspells : s.Spells r.lo r.pos r.limit (run.bits s.cfg)) (hcut : r.limit < r.pos + (run.bits s.cfg).length)
    (hsize : i + run.lens.length ≤ (s.table t).size) : s.Raises r (taggedRun t i) .truncatedInput := by
  obtain ⟨hcount, hfield⟩ := run.count_fits hfits
  rw [Run.bits_eq] at hspells hcut
  rw [List.length_append, length_runHead] at hcut
  have hhead := hspells.append_left
  rcases Nat.lt_or_ge r.pos r.limit with hpos | hend
  · obtain ⟨r₁, hok₁, hmoved₁, htag⟩ := taggedRun_run hc hok hpos t i
    rw [hhead.head hpos] at htag
    rw [State.Raises, htag]
    rcases Nat.lt_or_ge r.limit (r.pos + 1 + s.cfg.runCountBits) with hshort | hroom
    · exact giveRun_raises_of_count_cut hc hok₁ (by rw [hmoved₁.pos, hmoved₁.limit]; exact hshort)
    · have hsymbols : s.runSymbols r₁ (runOffset run.tag) = run.lens.length := by
        rw [State.runSymbols, hmoved₁.lo, hmoved₁.pos, hhead.tail.value hroom hfield]
        omega
      refine giveRun_raises_of_lens hc hok₁ (by rw [hmoved₁.pos, hmoved₁.limit]; exact hroom)
        (by rw [hsymbols]; exact hsize) fun r₂ hok₂ hmoved₂ => ?_
      obtain ⟨lens, hreads, -⟩ := runFields_reads hc hok₂ run
      rw [hsymbols]
      exact hreads.raises (by rw [(hmoved₁.trans hmoved₂).pos, (hmoved₁.trans hmoved₂).limit]; omega)
  · rw [taggedRun_eq]
    exact ((readBits_reads hc hok (n := 1)).raises (by omega)).bind _

/-- A run whose count passes the last symbol raises HuffmanTableCorrupt. -/
theorem taggedRun_raises_of_past (hc : s.inCovered) (hok : s.ReaderOk r) {equal : Bool} {field : Nat}
    (hfield : field < 2 ^ s.cfg.runCountBits) (hspells : s.Spells r.lo r.pos r.limit (runHead s.cfg equal field))
    (hroom : r.pos + (1 + s.cfg.runCountBits) ≤ r.limit) (hpast : (s.table t).size < i + (field + runOffset equal)) :
    s.Raises r (taggedRun t i) .huffmanTableCorrupt := by
  obtain ⟨r₁, hok₁, hmoved₁, htag⟩ := taggedRun_run hc hok (by omega) t i
  rw [hspells.head (by omega)] at htag
  have hsymbols : s.runSymbols r₁ (runOffset equal) = field + runOffset equal := by
    rw [State.runSymbols, hmoved₁.lo, hmoved₁.pos, hspells.tail.value (by omega) hfield]
  rw [State.Raises, htag]
  exact giveRun_raises_of_past hc hok₁ (by rw [hmoved₁.pos, hmoved₁.limit]; omega) (by rw [hsymbols]; exact hpast)

end TaggedRun

end Sys2Proof.Machine

namespace Sys2Proof.Machine

/-! ### An operation that ends in an error which the state it leaves does not show -/

/-- The operation raises `e`, and the call ends in the state that raising `e` at once would leave (rule R136). -/
def State.Fails {α : Type} (s : State) (op : Op α) (e : ErrCode) : Prop :=
  ∃ u, op s = .error (.error e) u ∧ u.raise e = s.raise e

section Fails
variable {α β : Type} {s : State} {r : BitReader} {op : Op α} {e : ErrCode}

theorem State.Fails.bind (h : s.Fails op e) (f : α → Op β) : s.Fails (op >>= f) e := by
  obtain ⟨u, hop, hraise⟩ := h
  exact ⟨u, by rw [Op.bind_apply, hop], hraise⟩

/-- An error behind an operation that leaves nothing an error shows. -/
theorem State.Fails.of_ok {a : α} {t : State} {f : α → Op β} (hop : op s = .ok a t) (hraise : t.raise e = s.raise e)
    (h : t.Fails (f a) e) : s.Fails (op >>= f) e := by
  obtain ⟨u, hf, hu⟩ := h
  exact ⟨u, by rw [Op.bind_apply, hop]; exact hf, hu.trans hraise⟩

theorem State.Fails.raised (s : State) (e : ErrCode) : s.Fails (Machine.raised e : Op α) e := ⟨s, rfl, rfl⟩

theorem State.Fails.runOp {op : Op Unit} (h : s.Fails op e) : Machine.runOp op s = .next (s.raise e) := by
  obtain ⟨u, hop, hraise⟩ := h
  exact (runOp_of_error hop).trans (congrArg _ hraise)

theorem State.Fails.runValue {op : Op Nat} (h : s.Fails op e) : Machine.runValue op s = .next (s.raise e) := by
  obtain ⟨u, hop, hraise⟩ := h
  unfold Machine.runValue
  rw [hop]
  exact congrArg _ hraise

end Fails

/-! ### The runs of a description, and what they leave of it -/

section Runs
variable {s : State} {t : TableId} {size fuel : Nat} {given : List Nat} {r : BitReader} {runs : List Run} {e : ErrCode}

@[simp] theorem runsLens_append (runs runs' : List Run) : runsLens (runs ++ runs') = runsLens runs ++ runsLens runs' :=
  List.flatMap_append ..

@[simp] theorem runsLens_cons (run : Run) (runs : List Run) : runsLens (run :: runs) = run.lens ++ runsLens runs := rfl

@[simp] theorem runsBits_append (cfg : Config) (runs runs' : List Run) :
    runsBits cfg (runs ++ runs') = runsBits cfg runs ++ runsBits cfg runs' :=
  List.flatMap_append ..

@[simp] theorem runsBits_cons (cfg : Config) (run : Run) (runs : List Run) :
    runsBits cfg (run :: runs) = run.bits cfg ++ runsBits cfg runs := rfl

theorem State.inCovered_loading : (s.loading t size given).inCovered ↔ s.inCovered := by
  rw [State.inCovered, State.cfg_loading, State.inLen_loading]

/-- Every run gives a length. -/
theorem Run.one_le_length {cfg : Config} {run : Run} (h : run.fits cfg) : 1 ≤ run.lens.length := by
  have hcount := (Run.count_fits h).1
  have hoffset : 1 ≤ runOffset run.tag := by unfold runOffset; split <;> omega
  omega

theorem length_runs_le {cfg : Config} (h : ∀ run ∈ runs, run.fits cfg) : runs.length ≤ (runsLens runs).length := by
  induction runs with
  | nil => exact Nat.le_refl _
  | cons run runs ih =>
    obtain ⟨hrun, hruns⟩ := List.forall_mem_cons.mp h
    have hone := Run.one_le_length hrun
    have hrest := ih hruns
    rw [runsLens_cons, List.length_append, List.length_cons]
    omega

theorem runsLens_lt {cfg : Config} (h : ∀ run ∈ runs, run.fits cfg) :
    ∀ l ∈ runsLens runs, l < 2 ^ cfg.tableLenBits := by
  intro l hl
  obtain ⟨run, hrun, hmem⟩ := List.mem_flatMap.mp hl
  exact Run.len_lt (h run hrun) l hmem

/-- No length field holds a length above MAX_CODE_LEN. -/
theorem le_maxCodeLen {cfg : Config} (h : ∀ run ∈ runs, run.fits cfg) : ∀ l ∈ runsLens runs, l ≤ cfg.maxCodeLen :=
  fun l hl => Nat.le_sub_one_of_lt (runsLens_lt h l hl)

/-- The run in which the limit falls. -/
theorem exists_run_cut {cfg : Config} {q limit : Nat} (hstart : q ≤ limit)
    (hcut : limit < q + (runsBits cfg runs).length) :
    ∃ before run after, runs = before ++ run :: after ∧ q + (runsBits cfg before).length ≤ limit ∧
      limit < q + (runsBits cfg before).length + (run.bits cfg).length := by
  induction runs generalizing q with
  | nil => exact absurd hcut (Nat.not_lt.mpr hstart)
  | cons run runs ih =>
    rw [runsBits_cons, List.length_append] at hcut
    rcases Nat.lt_or_ge limit (q + (run.bits cfg).length) with hhere | hlater
    · exact ⟨[], run, runs, rfl, hstart, hhere⟩
    · obtain ⟨before, run', after, rfl, hbefore, hafter⟩ := ih hlater (by omega)
      refine ⟨run :: before, run', after, rfl, ?_, ?_⟩ <;> rw [runsBits_cons, List.length_append] <;> omega

/-- Runs that are present and give no length past the last symbol are given one after another. -/
theorem runsOp_of_runs (hc : s.inCovered) (hok : s.ReaderOk r) (hfits : ∀ run ∈ runs, run.fits s.cfg)
    (hspells : s.Spells r.lo r.pos r.limit (runsBits s.cfg runs))
    (hroom : r.pos + (runsBits s.cfg runs).length ≤ r.limit) (hsize : given.length + (runsLens runs).length ≤ size) :
    ∃ r', s.ReaderOk r' ∧ r.Moved r' (runsBits s.cfg runs).length ∧ ∀ fuel,
      runsOp t (runs.length + fuel) given.length ((s.loading t size given).setReader r) =
        runsOp t fuel (given ++ runsLens runs).length ((s.loading t size (given ++ runsLens runs)).setReader r') := by
  induction runs generalizing r given with
  | nil => exact ⟨r, hok, BitReader.Moved.refl r, fun fuel => by simp [runsLens]⟩
  | cons run runs ih =>
    obtain ⟨hrun, hruns⟩ := List.forall_mem_cons.mp hfits
    have hone := Run.one_le_length hrun
    rw [runsBits_cons] at hspells hroom
    rw [runsLens_cons] at hsize
    simp only [List.length_append] at hroom hsize
    obtain ⟨r₁, hop, hok₁, hmoved₁⟩ := taggedRun_ok (s := s.loading t size given) (t := t) (i := given.length)
      (run := run) (State.inCovered_loading.mpr hc) (State.readerOk_loading.mpr hok) (by simpa using hrun)
      (by simpa [State.Spells] using hspells.append_left) (by simp; omega) (by simp; omega)
    rw [State.cfg_loading] at hmoved₁
    rw [State.setLens_loading] at hop
    obtain ⟨r₂, hok₂, hmoved₂, hrest⟩ := ih (r := r₁) (given := given ++ run.lens) (State.readerOk_loading.mp hok₁)
      hruns (by rw [hmoved₁.lo, hmoved₁.pos, hmoved₁.limit]; exact hspells.append_right)
      (by rw [hmoved₁.pos, hmoved₁.limit]; omega) (by rw [List.length_append]; omega)
    refine ⟨r₂, hok₂, by rw [runsBits_cons, List.length_append]; exact hmoved₁.trans hmoved₂, fun fuel => ?_⟩
    rw [List.length_cons, Nat.add_right_comm, runsOp_succ_of_lt (by simp; omega), Op.bind_apply,
      hop, runsLens_cons, ← List.append_assoc, ← hrest fuel, List.length_append]

/-- Behind runs that are present, a run that raises ends them all. -/
theorem runsOp_fails_of_run (hc : s.inCovered) (hok : s.ReaderOk r) (hfits : ∀ run ∈ runs, run.fits s.cfg)
    (hspells : s.Spells r.lo r.pos r.limit (runsBits s.cfg runs))
    (hroom : r.pos + (runsBits s.cfg runs).length ≤ r.limit) (hbelow : (runsLens runs).length < size)
    (hraises : ∀ r', s.ReaderOk r' → r.Moved r' (runsBits s.cfg runs).length →
      (s.loading t size (runsLens runs)).Raises r' (taggedRun t (runsLens runs).length) e) :
    ∃ u, runsOp t size 0 ((s.loading t size []).setReader r) = .error (.error e) u ∧ u.raise e = s.raise e := by
  obtain ⟨r', hok', hmoved, hruns⟩ := runsOp_of_runs (given := []) hc hok hfits hspells hroom (by simpa using hbelow.le)
  obtain ⟨fuel, hfuel⟩ := Nat.exists_eq_add_of_lt (Nat.lt_of_le_of_lt (length_runs_le hfits) hbelow)
  obtain ⟨r'', hraise⟩ := hraises r' hok' hmoved
  refine ⟨_, ?_, State.raise_loading s t size (runsLens runs) r'' e⟩
  have hstart := hruns (fuel + 1)
  rw [List.nil_append, List.length_nil, ← Nat.add_assoc, ← hfuel] at hstart
  rw [hstart, runsOp_succ_of_lt (by simpa using hbelow), Op.bind_apply, hraise]

end Runs

/-! ### HT_LOAD on a description, and on what is none (rules R75 to R78, R81, R86) -/

section HtLoad
variable {s : State} {t : TableId} {size : Nat} {r : BitReader} {runs : List Run} {e : ErrCode}

/-- HT_LOAD from where no length has been given. -/
theorem htLoadOp_eq (t : TableId) (size : Nat) (s : State) (r : BitReader) :
    htLoadOp t size (s.setReader r) =
      (runsOp t size 0 >>= fun _ => htBuildOp t) ((s.loading t size []).setReader r) := by
  cases t <;> rfl

theorem State.DescriptionAt.spells (h : s.DescriptionAt r.lo r.pos r.limit size runs) :
    s.Spells r.lo r.pos r.limit (runsBits s.cfg runs) := State.spells_of_eq h.stream _

/-- A description that is present leaves its lengths for the build. -/
theorem htLoadOp_of_description (hc : s.inCovered) (hok : s.ReaderOk r)
    (h : s.DescriptionAt r.lo r.pos r.limit size runs) :
    ∃ r', s.ReaderOk r' ∧ r.Moved r' (runsBits s.cfg runs).length ∧
      htLoadOp t size (s.setReader r) = htBuildOp t ((s.loading t size (runsLens runs)).setReader r') := by
  obtain ⟨r', hok', hmoved, hruns⟩ := runsOp_of_runs (t := t) (given := []) (size := size) hc hok h.fits h.spells h.room
    (by simpa using h.total.le)
  refine ⟨r', hok', hmoved, ?_⟩
  have hsteps := hruns (size - runs.length)
  have hlength := length_runs_le h.fits
  have htotal := h.total
  rw [List.nil_append, List.length_nil, Nat.add_sub_cancel' (by omega),
    runsOp_of_le (t := t) (i := (runsLens runs).length) (by simp [htotal])] at hsteps
  rw [htLoadOp_eq, Op.bind_apply, hsteps]

/-- A description whose lengths have a tree is loaded. -/
theorem htLoadOp_of_describes {nodes : List Node} (hc : s.inCovered) (hok : s.ReaderOk r)
    (h : s.Describes r.lo r.pos r.limit size runs nodes) :
    ∃ r', htLoadOp t size (s.setReader r) = .ok () ((s.setReader r').setTable t (loadedTable size runs nodes)) ∧
      s.ReaderOk r' ∧ r.Moved r' (runsBits s.cfg runs).length := by
  obtain ⟨r', hok', hmoved, hload⟩ := htLoadOp_of_description (t := t) hc hok h.toDescriptionAt
  refine ⟨r', ?_, hok', hmoved⟩
  have htotal := h.total
  rw [hload, htBuildOp_of_tree (nodes := nodes) (by simpa [htotal] using h.tree)]
  cases t <;> simp [State.loading, State.setTable, State.setReader, State.table, loadedTable, htotal]

/-- A description whose lengths have no tree in the arena raises HuffmanTableCorrupt. -/
theorem htLoadOp_fails_of_build (hc : s.inCovered) (hok : s.ReaderOk r)
    (h : s.DescriptionAt r.lo r.pos r.limit size runs) (hbuild : buildTree s.cfg (runsLens runs) = none) :
    (s.setReader r).Fails (htLoadOp t size) .huffmanTableCorrupt := by
  obtain ⟨r', -, -, hload⟩ := htLoadOp_of_description (t := t) hc hok h
  have htotal := h.total
  exact ⟨_, hload.trans (htBuildOp_of_none (by simpa [htotal] using hbuild)), State.raise_loading ..⟩

/-- Runs that raise end HT_LOAD. -/
theorem htLoadOp_fails_of_runs
    (h : ∃ u, runsOp t size 0 ((s.loading t size []).setReader r) = .error (.error e) u ∧ u.raise e = s.raise e) :
    (s.setReader r).Fails (htLoadOp t size) e := by
  obtain ⟨u, hruns, hraise⟩ := h
  exact ⟨u, by rw [htLoadOp_eq, Op.bind_apply, hruns], hraise⟩

theorem htLoadOp_fails_of_cut (hc : s.inCovered) (hok : s.ReaderOk r)
    (h : s.DescriptionCut r.lo r.pos r.limit size runs) :
    (s.setReader r).Fails (htLoadOp t size) .truncatedInput := by
  obtain ⟨before, run, after, rfl, hbefore, hafter⟩ := exists_run_cut h.start h.short
  have hfits := h.fits
  have htotal := h.total
  have hspells := State.spells_of_take h.stream
  rw [List.forall_mem_append] at hfits
  obtain ⟨hfitsBefore, hrun, -⟩ := hfits.imp_right List.forall_mem_cons.mp
  have hone := Run.one_le_length hrun
  simp only [runsLens_append, runsLens_cons, List.length_append] at htotal
  rw [runsBits_append, runsBits_cons] at hspells
  refine htLoadOp_fails_of_runs (runsOp_fails_of_run hc hok hfitsBefore hspells.append_left hbefore (by omega)
    fun r' hok' hmoved => ?_)
  refine taggedRun_raises_of_cut (run := run) (State.inCovered_loading.mpr hc) (State.readerOk_loading.mpr hok')
    (by simpa using hrun) ?_ ?_ ?_
  · rw [hmoved.lo, hmoved.pos, hmoved.limit]
    simpa [State.Spells] using hspells.append_right.append_left
  · rw [hmoved.pos, hmoved.limit]
    simpa using hafter
  · rw [State.table_loading]
    dsimp only
    omega

theorem htLoadOp_fails_of_past {equal : Bool} {field : Nat} (hc : s.inCovered) (hok : s.ReaderOk r)
    (h : s.RunPast r.lo r.pos r.limit size runs equal field) :
    (s.setReader r).Fails (htLoadOp t size) .huffmanTableCorrupt := by
  have hspells := State.spells_of_eq h.stream r.limit
  have hroom := h.room
  have hpast := h.past
  rw [List.length_append, length_runHead] at hroom
  refine htLoadOp_fails_of_runs (runsOp_fails_of_run hc hok h.fits hspells.append_left (by omega) h.below
    fun r' hok' hmoved => ?_)
  refine taggedRun_raises_of_past (equal := equal) (field := field) (State.inCovered_loading.mpr hc)
    (State.readerOk_loading.mpr hok') (by simpa using h.count) ?_ ?_ ?_
  · rw [hmoved.lo, hmoved.pos, hmoved.limit]
    simpa [State.Spells] using hspells.append_right
  · rw [hmoved.pos, hmoved.limit, State.cfg_loading]
    omega
  · rw [State.table_loading]
    exact hpast

/-- HT_LOAD raises what the description fails with. -/
theorem htLoadOp_fails (hc : s.inCovered) (hok : s.ReaderOk r) (h : s.LoadFails r.lo r.pos r.limit size e) :
    (s.setReader r).Fails (htLoadOp t size) e := by
  cases h with
  | cut runs h => exact htLoadOp_fails_of_cut hc hok h
  | runPast runs equal field h => exact htLoadOp_fails_of_past hc hok h
  | oversubscribed runs h sum =>
    exact htLoadOp_fails_of_build hc hok h (buildTree_of_oversubscribed (le_maxCodeLen h.fits) sum)
  | arenaFull runs nodes capacity h tree finite full =>
    exact htLoadOp_fails_of_build hc hok h
      ((buildTree_of_unbounded (le_maxCodeLen h.fits) tree).2 capacity finite full)

end HtLoad

/-- Settles O23: a description is the runs that give its lengths, then the build of their tree. -/
theorem loadReadsTheDescription : Obligations.LoadReadsTheDescription := by
  intro t size s r hc hr hok
  refine ⟨fun e hfails => ?_, fun runs nodes hdescribes => ?_⟩
  · have hrun := (htLoadOp_fails (t := t) hc hok hfails).runOp
    rwa [State.setReader_self hr] at hrun
  · obtain ⟨r', hop, hok', hmoved⟩ := htLoadOp_of_describes (t := t) hc hok hdescribes
    rw [State.setReader_self hr] at hop
    exact ⟨r', runOp_of_ok hop, hok', hmoved⟩

end Sys2Proof.Machine

namespace Sys2Proof.Machine

/-! ## The tables of LZH8 and of Romchu blocks -/

/-! ### What an input says does not depend on the state that holds it -/

/-- The states hold the same input under the same configuration. -/
structure State.SameInput (s u : State) : Prop where
  byte : ∀ a, u.inByte a = s.inByte a
  inLen : u.inLen = s.inLen
  cfg : u.cfg = s.cfg

section SameInput
variable {s u v : State} {a lo q n limit size payload p w tsz : Nat} {runs : List Run} {nodes : List Node} {e : ErrCode}

theorem State.SameInput.trans (h : s.SameInput u) (h' : u.SameInput v) : s.SameInput v :=
  ⟨fun a => (h'.byte a).trans (h.byte a), h'.inLen.trans h.inLen, h'.cfg.trans h.cfg⟩

theorem State.SameInput.symm (h : s.SameInput u) : u.SameInput s :=
  ⟨fun a => (h.byte a).symm, h.inLen.symm, h.cfg.symm⟩

theorem State.sameInput_setReader (s : State) (r : BitReader) : s.SameInput (s.setReader r) := ⟨fun _ => rfl, rfl, rfl⟩

theorem State.sameInput_setTable (s : State) (t : TableId) (x : Table) : s.SameInput (s.setTable t x) := by
  cases t <;> exact ⟨fun _ => rfl, rfl, rfl⟩

theorem State.SameInput.covered (h : s.SameInput u) (hc : s.inCovered) : u.inCovered := by
  rw [State.inCovered, h.cfg, h.inLen]
  exact hc

theorem State.SameInput.readerOk {r : BitReader} (h : s.SameInput u) (hok : s.ReaderOk r) : u.ReaderOk r where
  start := hok.start
  stop := hok.stop
  inside := h.inLen ▸ hok.inside
  bounded := hok.bounded
  delivered := hok.delivered
  width := hok.width
  loaded hbits := by rw [h.byte]; exact hok.loaded hbits

theorem State.SameInput.inBytes (h : s.SameInput u) (a n : Nat) : u.inBytes a n = s.inBytes a n :=
  State.inBytes_congr h.byte a n

theorem State.SameInput.streamBit (h : s.SameInput u) (lo q : Nat) : u.streamBit lo q = s.streamBit lo q := by
  rw [State.streamBit, h.byte, State.streamBit]

theorem State.SameInput.streamBits (h : s.SameInput u) (lo q n : Nat) :
    u.streamBits lo q n = s.streamBits lo q n := by
  induction n generalizing q with
  | zero => rfl
  | succ n ih => rw [State.streamBits, State.streamBits, h.streamBit, ih]

theorem State.SameInput.descriptionAt (h : s.SameInput u) (hd : s.DescriptionAt lo q limit size runs) :
    u.DescriptionAt lo q limit size runs := by
  obtain ⟨hfits, htotal, hroom, hstream⟩ := hd
  refine ⟨?_, htotal, ?_, ?_⟩ <;> rw [h.cfg]
  exacts [hfits, hroom, (h.streamBits ..).trans hstream]

theorem State.SameInput.describes (h : s.SameInput u) (hd : s.Describes lo q limit size runs nodes) :
    u.Describes lo q limit size runs nodes :=
  ⟨h.descriptionAt hd.toDescriptionAt, h.cfg ▸ hd.tree⟩

theorem State.SameInput.descriptionCut (h : s.SameInput u) (hd : s.DescriptionCut lo q limit size runs) :
    u.DescriptionCut lo q limit size runs := by
  obtain ⟨hfits, htotal, hstart, hshort, hstream⟩ := hd
  refine ⟨?_, htotal, hstart, ?_, ?_⟩ <;> rw [h.cfg]
  exacts [hfits, hshort, (h.streamBits ..).trans hstream]

theorem State.SameInput.runPast {equal : Bool} {field : Nat} (h : s.SameInput u)
    (hd : s.RunPast lo q limit size runs equal field) : u.RunPast lo q limit size runs equal field := by
  obtain ⟨hfits, hcount, hbelow, hpast, hroom, hstream⟩ := hd
  refine ⟨?_, ?_, hbelow, hpast, ?_, ?_⟩ <;> rw [h.cfg]
  exacts [hfits, hcount, hroom, (h.streamBits ..).trans hstream]

theorem State.SameInput.loadFails (h : s.SameInput u) (hf : s.LoadFails lo q limit size e) :
    u.LoadFails lo q limit size e := by
  cases hf with
  | cut runs hd => exact .cut runs (h.descriptionCut hd)
  | runPast runs equal field hd => exact .runPast runs equal field (h.runPast hd)
  | oversubscribed runs hd sum => exact .oversubscribed runs (h.descriptionAt hd) (by rw [h.cfg]; exact sum)
  | arenaFull runs nodes capacity hd tree finite full =>
    exact .arenaFull runs nodes capacity (h.descriptionAt hd) (by rw [h.cfg]; exact tree) (h.cfg ▸ finite) full

theorem State.SameInput.lzh8TableAt (h : s.SameInput u) (ht : s.Lzh8TableAt a size w runs nodes) :
    u.Lzh8TableAt a size w runs nodes :=
  ⟨h.inBytes a 2 ▸ ht.field, h.inLen ▸ ht.inside, h.describes ht.describes⟩

theorem State.SameInput.lzh8TableFails (h : s.SameInput u) (hf : s.Lzh8TableFails a size e) :
    u.Lzh8TableFails a size e := by
  cases hf with
  | field hshort => exact .field (h.inLen ▸ hshort)
  | subStream w present field hshort =>
    exact .subStream w (h.inLen ▸ present) (h.inBytes a 2 ▸ field) (h.inLen ▸ hshort)
  | load w e field inside hload =>
    exact .load w e (h.inBytes a 2 ▸ field) (h.inLen ▸ inside) (h.loadFails hload)

theorem State.SameInput.rcTableAt (h : s.SameInput u) (ht : s.RcTableAt payload p n size tsz runs nodes) :
    u.RcTableAt payload p n size tsz runs nodes where
  aligned := ht.aligned
  field := h.streamBits payload p 16 ▸ ht.field
  inside := ht.inside
  describes := h.describes ht.describes
  padding q hstart hstop := by
    rw [h.cfg] at hstart
    exact (h.streamBit ..).trans (ht.padding q hstart hstop)

theorem State.SameInput.rcTableFails (h : s.SameInput u) (hf : s.RcTableFails payload p n size e) :
    u.RcTableFails payload p n size e := by
  have hfield := h.streamBits payload p 16
  cases hf with
  | field hshort => exact .field hshort
  | subStream tsz present field hshort => exact .subStream tsz present (hfield ▸ field) hshort
  | load tsz e field inside hload => exact .load tsz e (hfield ▸ field) inside (h.loadFails hload)
  | padding tsz runs nodes q field inside hd start stop one =>
    exact .padding tsz runs nodes q (hfield ▸ field) inside (h.describes hd) (h.cfg ▸ start) stop
      ((h.streamBit ..).trans one)

end SameInput

@[simp] theorem State.raise_setTable (s : State) (t : TableId) (x : Table) (e : ErrCode) :
    (s.setTable t x).raise e = s.raise e := by
  cases t <;> rfl

theorem State.br_setTable (s : State) (t : TableId) (x : Table) : (s.setTable t x).br = s.br := by
  cases t <;> rfl

/-! ### HT_LOAD at a reader that has delivered nothing -/

section FreshReader
variable {s : State} {t : TableId} {lo hi limit size : Nat} {runs : List Run} {nodes : List Node} {e : ErrCode}

theorem htLoadOp_fails_at_init (hc : s.inCovered) (hok : s.ReaderOk (BitReader.init lo hi (some limit)))
    (h : s.LoadFails lo 0 limit size e) :
    (s.setReader (BitReader.init lo hi (some limit))).Fails (htLoadOp t size) e :=
  htLoadOp_fails hc hok (by rw [BitReader.pos_init]; exact h)

theorem htLoadOp_of_describes_at_init (hc : s.inCovered) (hok : s.ReaderOk (BitReader.init lo hi (some limit)))
    (h : s.Describes lo 0 limit size runs nodes) :
    ∃ r, htLoadOp t size (s.setReader (BitReader.init lo hi (some limit))) =
        .ok () ((s.setReader r).setTable t (loadedTable size runs nodes)) ∧
      s.ReaderOk r ∧ (BitReader.init lo hi (some limit)).Moved r (runsBits s.cfg runs).length :=
  htLoadOp_of_describes hc hok (by rw [BitReader.pos_init]; exact h)

end FreshReader

/-! ### One table of LZH8_SETUP (rules R59, R109) -/

section Lzh8Table
variable {s : State} {a size w : Nat} {runs : List Run} {nodes : List Node} {e : ErrCode}

theorem le16_of_le (hc : s.inCovered) (h : a + 2 ≤ s.inLen.toNat) : le16 a s = .ok (leValue (s.inBytes a 2)) s := by
  simp [le16, memRead_of_le hc h]

theorem le16_of_lt (h : s.inLen.toNat < a + 2) : le16 a s = .error (.error .truncatedInput) s := by
  simp [le16, memRead_of_lt h]

/-- The table behind a size field that is present. -/
theorem lzh8TableOp_of_field (hc : s.inCovered) (hin : a + 2 ≤ s.inLen.toNat) (hw : leValue (s.inBytes a 2) = w)
    (t : TableId) (size : Nat) : lzh8TableOp t size a s =
      if s.inLen.toNat < a + 2 + 4 * w then .error (.error .truncatedInput) s
      else (htLoadOp t size >>= fun _ => pure (a + 2 + 4 * w))
        (s.setReader (BitReader.init (a + 2) (a + 2 + 4 * w) (some (32 * w)))) := by
  have hlimit : (a + 2 + 4 * w - (a + 2)) * 8 = 32 * w := by omega
  simp only [lzh8TableOp, Op.bind_apply, le16_of_le hc hin, hw, Op.get_apply, Op.ite_apply, brInitOp, update_apply,
    BitReader.init_none, hlimit, raised_apply]

theorem lzh8TableOp_fails (hc : s.inCovered) (h : s.Lzh8TableFails a size e) (t : TableId) :
    s.Fails (lzh8TableOp t size a) e := by
  cases h with
  | field hshort => exact ⟨s, by simp [lzh8TableOp, le16_of_lt hshort], rfl⟩
  | subStream w present field hshort =>
    exact ⟨s, by rw [lzh8TableOp_of_field hc present field, if_pos hshort], rfl⟩
  | load w e field inside hload =>
    have hok := State.readerOk_init (s := s) (limit := 32 * w) (Nat.le_add_right (a + 2) (4 * w)) inside (by omega)
    obtain ⟨u, hop, hraise⟩ := (htLoadOp_fails_at_init (t := t) hc hok hload).bind fun _ => pure (a + 2 + 4 * w)
    exact ⟨u, by rw [lzh8TableOp_of_field hc (by omega) field, if_neg (by omega), hop], hraise⟩

theorem lzh8TableOp_of_at (hc : s.inCovered) (h : s.Lzh8TableAt a size w runs nodes) (t : TableId) : ∃ r,
    lzh8TableOp t size a s = .ok (a + 2 + 4 * w) ((s.setReader r).setTable t (loadedTable size runs nodes)) := by
  have hinside := h.inside
  have hok := State.readerOk_init (s := s) (limit := 32 * w) (Nat.le_add_right (a + 2) (4 * w)) hinside (by omega)
  obtain ⟨r, hop, -, -⟩ := htLoadOp_of_describes_at_init (t := t) hc hok h.describes
  refine ⟨r, ?_⟩
  rw [lzh8TableOp_of_field hc (by omega) h.field, if_neg (by omega), Op.bind_apply, hop]
  rfl

end Lzh8Table

section Lzh8Tables
variable {s : State} {a w1 w2 : Nat} {runs1 runs2 : List Run} {nodes1 nodes2 : List Node} {e : ErrCode}

/-- LZH8_SETUP with an output to fill: the tables, then the reader of the body. -/
def lzh8TablesOp (a : Nat) : Op Unit := do
  let s ← get
  let a ← lzh8TableOp .t1 s.cfg.lzh8S1 a
  let a ← lzh8TableOp .t2 s.cfg.lzh8S2 a
  brInitOp a s.inLen.toNat none
  update fun s => s.setPhase .lzh8Body

theorem lzh8SetupTail_of_open (h : s.declared ≠ 0) (a : Nat) : lzh8SetupTail a s = lzh8TablesOp a s := by
  simp only [lzh8SetupTail, lzh8TablesOp, Op.bind_apply, Op.get_apply, Op.ite_apply, if_neg h]

theorem lzh8TablesOp_fails_of_first (hc : s.inCovered) (h : s.Lzh8TableFails a s.cfg.lzh8S1 e) :
    s.Fails (lzh8TablesOp a) e :=
  .of_ok (Op.get_apply s) rfl ((lzh8TableOp_fails hc h .t1).bind _)

theorem lzh8TablesOp_fails_of_second (hc : s.inCovered) (h1 : s.Lzh8TableAt a s.cfg.lzh8S1 w1 runs1 nodes1)
    (h : s.Lzh8TableFails (a + 2 + 4 * w1) s.cfg.lzh8S2 e) : s.Fails (lzh8TablesOp a) e := by
  obtain ⟨r, hop⟩ := lzh8TableOp_of_at hc h1 .t1
  have hsame := (s.sameInput_setReader r).trans
    ((s.setReader r).sameInput_setTable .t1 (loadedTable s.cfg.lzh8S1 runs1 nodes1))
  exact .of_ok (Op.get_apply s) rfl (.of_ok hop rfl
    ((lzh8TableOp_fails (hsame.covered hc) (hsame.lzh8TableFails h) .t2).bind _))

theorem lzh8TablesOp_of_at (hc : s.inCovered) (h1 : s.Lzh8TableAt a s.cfg.lzh8S1 w1 runs1 nodes1)
    (h2 : s.Lzh8TableAt (a + 2 + 4 * w1) s.cfg.lzh8S2 w2 runs2 nodes2) : lzh8TablesOp a s = .ok ()
      { s with
        t1 := loadedTable s.cfg.lzh8S1 runs1 nodes1
        t2 := loadedTable s.cfg.lzh8S2 runs2 nodes2
        br := some (BitReader.init (a + 2 + 4 * w1 + 2 + 4 * w2) s.inLen.toNat none)
        phase := .lzh8Body } := by
  obtain ⟨r, hop⟩ := lzh8TableOp_of_at hc h1 .t1
  have hsame := (s.sameInput_setReader r).trans
    ((s.setReader r).sameInput_setTable .t1 (loadedTable s.cfg.lzh8S1 runs1 nodes1))
  obtain ⟨r', hop'⟩ := lzh8TableOp_of_at (hsame.covered hc) (hsame.lzh8TableAt h2) .t2
  simp only [lzh8TablesOp, Op.bind_apply, Op.get_apply, hop, hop', brInitOp, update_apply]
  simp only [State.setReader, State.setTable, State.setPhase]

end Lzh8Tables

/-- Settles O35: the length fixes the state and the address from which the tables are loaded. -/
theorem lzh8SetupLoadsBothTables : Obligations.Lzh8SetupLoadsBothTables := by
  intro s a len hc hlen hcase
  have hrun : exec .lzh8Setup s = runOp (lzh8TablesOp a)
      { s with declared := len, outLen := if a = 8 then BitVec.ofNat 32 len else s.outLen } := by
    rcases hcase with ⟨rfl, rfl⟩ | ⟨hzero, hmode, hin, rfl, hfits, rfl⟩
    · rw [exec_lzh8Setup_of_length (lzh8LengthOp_of_some hlen)]
      exact runOp_congr (lzh8SetupTail_of_open hlen 4)
    · rw [exec_lzh8Setup_of_length (lzh8LengthOp_of_fits hc hzero hmode hin hfits)]
      exact runOp_congr (lzh8SetupTail_of_open (s := s.setDeclared _) hlen 8)
  have hsame : s.SameInput { s with declared := len, outLen := if a = 8 then BitVec.ofNat 32 len else s.outLen } :=
    ⟨fun _ => rfl, rfl, rfl⟩
  have hcovered := hsame.covered hc
  rw [hrun]
  refine ⟨fun e h => ?first, fun w1 runs1 nodes1 h1 => ⟨fun e h => ?second, fun w2 runs2 nodes2 h2 => ?both⟩⟩
  case first => exact (lzh8TablesOp_fails_of_first hcovered (hsame.lzh8TableFails h)).runOp
  case second =>
    exact (lzh8TablesOp_fails_of_second hcovered (hsame.lzh8TableAt h1) (hsame.lzh8TableFails h)).runOp
  case both => exact runOp_of_ok (lzh8TablesOp_of_at hcovered (hsame.lzh8TableAt h1) (hsame.lzh8TableAt h2))

end Sys2Proof.Machine

namespace Sys2Proof.Machine

/-! ### One table of a Romchu block (rules R62, R119) -/

/-- A bit counted from a later byte. -/
theorem State.streamBit_shift (s : State) (lo k q : Nat) : s.streamBit (lo + k) q = s.streamBit lo (8 * k + q) := by
  rw [State.streamBit, State.streamBit, Nat.mul_add_div (by omega), Nat.mul_add_mod, Nat.add_assoc]

theorem State.streamBits_shift (s : State) (lo k q n : Nat) :
    s.streamBits (lo + k) q n = s.streamBits lo (8 * k + q) n := by
  induction n generalizing q with
  | zero => rfl
  | succ n ih => rw [State.streamBits, State.streamBits, State.streamBit_shift, ih, Nat.add_assoc]

section RcTable
variable {s : State} {t : TableId} {size p tsz n : Nat} {runs : List Run} {nodes : List Node} {e : ErrCode}

/-- RC_TABLE once its size field is known. -/
def rcTableTail (t : TableId) (size p tsz : Nat) : Op Nat := do
  let s ← get
  if s.rc.n < rcTableEnd p tsz then raised .truncatedInput
  else
    let lo := s.rc.payload + (p + 16) / 8
    brInitOp lo (lo + ceil8 tsz) (some tsz)
    htLoadOp t size
    brCheckpadOp (8 * ceil8 tsz)
    return rcTableEnd p tsz

/-- A block whose payload is inside IN. -/
structure State.BlockOk (s : State) : Prop where
  covered : s.inCovered
  next : s.rc.next = s.rc.payload + ceil8 s.rc.n
  inside : s.rc.next ≤ s.inLen.toNat

theorem State.BlockOk.of_sameInput {u : State} (h : s.BlockOk) (hsame : s.SameInput u) (hrc : u.rc = s.rc) :
    u.BlockOk where
  covered := hsame.covered h.covered
  next := hrc ▸ h.next
  inside := by rw [hrc, hsame.inLen]; exact h.inside

theorem rcTableTail_of_short (h : s.rc.n < rcTableEnd p tsz) :
    rcTableTail t size p tsz s = .error (.error .truncatedInput) s := by
  simp [rcTableTail, h]

theorem rcTableTail_of_inside (h : rcTableEnd p tsz ≤ s.rc.n) : rcTableTail t size p tsz s =
    (htLoadOp t size >>= fun _ => brCheckpadOp (8 * ceil8 tsz) >>= fun _ => pure (rcTableEnd p tsz))
      (s.setReader
        (BitReader.init (s.rc.payload + (p + 16) / 8) (s.rc.payload + (p + 16) / 8 + ceil8 tsz) (some tsz))) := by
  simp only [rcTableTail, Op.bind_apply, Op.get_apply, Op.ite_apply, if_neg (Nat.not_lt.mpr h), brInitOp, update_apply]

/-- The size field is read through a reader of its own. -/
theorem rcTableOp_of_field (hb : s.BlockOk) (hp : p % 8 = 0) (hpresent : p + 16 ≤ s.rc.n)
    (hfield : bitsValue (s.streamBits s.rc.payload p 16) = tsz) :
    ∃ r, rcTableOp t size p s = rcTableTail t size p tsz (s.setReader r) := by
  have hnext := hb.next
  have hinside := hb.inside
  have hp8 : 8 * (p / 8) = p := by omega
  unfold ceil8 at hnext
  have hok : s.ReaderOk (BitReader.init (s.rc.payload + p / 8) s.rc.next (some (s.rc.n - p))) :=
    State.readerOk_init (by omega) hinside (by omega)
  obtain ⟨r, hop, -, -⟩ := (readBits_reads hb.covered hok (n := 16)).takes
    (by rw [BitReader.pos_init]; simp only [BitReader.init, Option.getD_some]; omega)
  have hread : readBits 16 (s.setReader (BitReader.init (s.rc.payload + p / 8) s.rc.next (some (s.rc.n - p)))) =
      .ok tsz (s.setReader r) := by
    rw [hop, BitReader.pos_init]
    simp only [BitReader.init]
    rw [State.streamBits_shift, hp8, Nat.add_zero, hfield]
  refine ⟨r, ?_⟩
  simp only [rcTableOp, Op.bind_apply, Op.get_apply, Op.ite_apply, if_neg (Nat.not_lt.mpr hpresent), brInitOp,
    update_apply, hread]
  split
  · next hshort => exact (rcTableTail_of_short (s := s.setReader r) hshort).symm
  · next hinside =>
    rw [rcTableTail_of_inside (s := s.setReader r) (Nat.not_lt.mp hinside)]
    simp only [Op.bind_apply]
    rfl

theorem rcTableOp_of_short (h : s.rc.n < p + 16) :
    rcTableOp t size p s = .error (.error .truncatedInput) s := by
  simp [rcTableOp, h]

/-- The reader of a sub-stream inside the block fits IN. -/
theorem readerOk_subStream (hb : s.BlockOk) (h : rcTableEnd p tsz ≤ s.rc.n) : s.ReaderOk
    (BitReader.init (s.rc.payload + (p + 16) / 8) (s.rc.payload + (p + 16) / 8 + ceil8 tsz) (some tsz)) := by
  have hnext := hb.next
  have hinside := hb.inside
  unfold rcTableEnd at h
  unfold ceil8 at h hnext ⊢
  exact State.readerOk_init (by omega) (by omega) (by omega)

/-- A description inside the sub-stream is loaded, and the padding behind it is left to check. -/
theorem rcTableTail_of_describes (hb : s.BlockOk) (h : rcTableEnd p tsz ≤ s.rc.n)
    (hd : s.Describes (s.rc.payload + (p + 16) / 8) 0 tsz size runs nodes) : ∃ r, s.ReaderOk r ∧
      r.lo = s.rc.payload + (p + 16) / 8 ∧ r.hi = s.rc.payload + (p + 16) / 8 + ceil8 tsz ∧
      r.pos = (runsBits s.cfg runs).length ∧
      rcTableTail t size p tsz s = (brCheckpadOp (8 * ceil8 tsz) >>= fun _ => pure (rcTableEnd p tsz))
        ((s.setReader r).setTable t (loadedTable size runs nodes)) := by
  obtain ⟨r, hop, hok, hmoved⟩ := htLoadOp_of_describes_at_init (t := t) hb.covered (readerOk_subStream hb h) hd
  refine ⟨r, hok, hmoved.lo, hmoved.hi, by rw [hmoved.pos, BitReader.pos_init, Nat.zero_add], ?_⟩
  rw [rcTableTail_of_inside h, Op.bind_apply, hop]

/-- The state after a table, at any reader. -/
theorem State.sameInput_loaded (s : State) (r : BitReader) (t : TableId) (x : Table) :
    s.SameInput ((s.setReader r).setTable t x) :=
  (s.sameInput_setReader r).trans ((s.setReader r).sameInput_setTable t x)

theorem reader_loaded (s : State) (r : BitReader) (t : TableId) (x : Table) :
    reader ((s.setReader r).setTable t x) = .ok r ((s.setReader r).setTable t x) :=
  reader_of_some (State.br_setTable ..)

/-- Zeros behind the description end the table at the end of its last byte. -/
theorem rcTableTail_of_zeros (hb : s.BlockOk) (h : rcTableEnd p tsz ≤ s.rc.n)
    (hd : s.Describes (s.rc.payload + (p + 16) / 8) 0 tsz size runs nodes)
    (hzero : ∀ q, (runsBits s.cfg runs).length ≤ q → q < 8 * ceil8 tsz →
      s.streamBit (s.rc.payload + (p + 16) / 8) q = false) :
    ∃ r, rcTableTail t size p tsz s =
        .ok (rcTableEnd p tsz) ((s.setReader r).setTable t (loadedTable size runs nodes)) ∧
      s.ReaderOk { r with limit := 8 * ceil8 tsz } ∧ r.lo = s.rc.payload + (p + 16) / 8 ∧ r.pos = 8 * ceil8 tsz := by
  obtain ⟨r, hok, hlo, hhi, hpos, hop⟩ := rcTableTail_of_describes (t := t) hb h hd
  have hsame := s.sameInput_loaded r t (loadedTable size runs nodes)
  have hbits : tsz ≤ 8 * ceil8 tsz := by unfold ceil8; omega
  have hroom := hd.room
  have hinside := hhi ▸ hok.inside
  have hpad := checkZeroBits_of_zeros (s := (s.setReader r).setTable t (loadedTable size runs nodes))
    (lo := r.lo) (q := r.pos) (n := 8 * ceil8 tsz - r.pos) (len := ceil8 tsz) (hsame.covered hb.covered)
    (by rw [hlo, hsame.inLen]; exact hinside) (by omega)
    fun q hle hlt => by rw [hsame.streamBit, hlo]; exact hzero q (by omega) (by omega)
  have hdiv : 8 * ceil8 tsz / 8 = ceil8 tsz := Nat.mul_div_cancel_left _ (by omega)
  refine ⟨{ r with idx := r.lo + ceil8 tsz, nbits := 0 }, ?_, ?_, hlo, ?_⟩
  · rw [hop]
    simp only [brCheckpadOp, Op.bind_apply, reader_loaded, hpad, update_apply, hdiv]
    cases t <;> rfl
  · exact {
      start := Nat.le_add_right ..
      stop := by dsimp only; omega
      inside := hok.inside
      bounded := by dsimp only; omega
      delivered := by simp only [BitReader.pos]; omega
      width := Nat.zero_le 8
      loaded := fun h => absurd rfl h }
  · simp only [BitReader.pos]
    omega

/-- A 1 behind the description raises HuffmanTableCorrupt. -/
theorem rcTableTail_fails_of_one (hb : s.BlockOk) (h : rcTableEnd p tsz ≤ s.rc.n)
    (hd : s.Describes (s.rc.payload + (p + 16) / 8) 0 tsz size runs nodes) {q : Nat}
    (hstart : (runsBits s.cfg runs).length ≤ q) (hstop : q < 8 * ceil8 tsz)
    (hone : s.streamBit (s.rc.payload + (p + 16) / 8) q = true) :
    s.Fails (rcTableTail t size p tsz) .huffmanTableCorrupt := by
  obtain ⟨r, hok, hlo, hhi, hpos, hop⟩ := rcTableTail_of_describes (t := t) hb h hd
  have hsame := s.sameInput_loaded r t (loadedTable size runs nodes)
  have hinside := hhi ▸ hok.inside
  have hpad := checkZeroBits_of_one (s := (s.setReader r).setTable t (loadedTable size runs nodes))
    (lo := r.lo) (q := r.pos) (n := 8 * ceil8 tsz - r.pos) (len := ceil8 tsz) (p := q) (hsame.covered hb.covered)
    (by rw [hlo, hsame.inLen]; exact hinside) (by omega) (by omega) (by omega)
    (by rw [hsame.streamBit, hlo]; exact hone)
  refine ⟨(s.setReader r).setTable t (loadedTable size runs nodes), ?_, by simp⟩
  rw [hop]
  simp only [brCheckpadOp, Op.bind_apply, reader_loaded, hpad]

theorem rcTableOp_fails (hb : s.BlockOk) (hp : p % 8 = 0) (h : s.RcTableFails s.rc.payload p s.rc.n size e) :
    s.Fails (rcTableOp t size p) e := by
  have htail (tsz : Nat) (hpresent : p + 16 ≤ s.rc.n) (hfield : bitsValue (s.streamBits s.rc.payload p 16) = tsz)
      (hfails : ∀ r, (s.setReader r).Fails (rcTableTail t size p tsz) e) : s.Fails (rcTableOp t size p) e := by
    obtain ⟨r, hop⟩ := rcTableOp_of_field (t := t) (size := size) hb hp hpresent hfield
    obtain ⟨u, hu, hraise⟩ := hfails r
    exact ⟨u, hop.trans hu, hraise⟩
  cases h with
  | field hshort => exact ⟨s, rcTableOp_of_short hshort, rfl⟩
  | subStream tsz present field hshort =>
    exact htail tsz present field fun r => ⟨_, rcTableTail_of_short (s := s.setReader r) hshort, rfl⟩
  | load tsz e field inside hload =>
    refine htail tsz (by unfold rcTableEnd at inside; omega) field fun r => ?_
    have hsame := s.sameInput_setReader r
    have hb' := hb.of_sameInput hsame rfl
    obtain ⟨u, hop, hraise⟩ := (htLoadOp_fails_at_init (t := t) hb'.covered (readerOk_subStream hb' inside)
      (hsame.loadFails hload)).bind fun _ => brCheckpadOp (8 * ceil8 tsz) >>= fun _ => pure (rcTableEnd p tsz)
    exact ⟨u, (rcTableTail_of_inside (s := s.setReader r) inside).trans hop, hraise⟩
  | padding tsz runs nodes q field inside hd start stop one =>
    refine htail tsz (by unfold rcTableEnd at inside; omega) field fun r => ?_
    have hsame := s.sameInput_setReader r
    exact rcTableTail_fails_of_one (hb.of_sameInput hsame rfl) inside (hsame.describes hd) start stop
      ((hsame.streamBit ..).trans one)

theorem rcTableOp_of_at (hb : s.BlockOk) (h : s.RcTableAt s.rc.payload p s.rc.n size tsz runs nodes) :
    ∃ r, rcTableOp t size p s =
        .ok (rcTableEnd p tsz) ((s.setReader r).setTable t (loadedTable size runs nodes)) ∧
      s.ReaderOk { r with limit := 8 * ceil8 tsz } ∧ r.lo = s.rc.payload + (p + 16) / 8 ∧ r.pos = 8 * ceil8 tsz := by
  have hinside := h.inside
  obtain ⟨r, hop⟩ := rcTableOp_of_field (t := t) (size := size) hb h.aligned
    (by unfold rcTableEnd at hinside; omega) h.field
  have hsame := s.sameInput_setReader r
  obtain ⟨r', htail, hok, hlo, hpos⟩ := rcTableTail_of_zeros (t := t) (hb.of_sameInput hsame rfl) hinside
    (hsame.describes h.describes) fun q hstart hstop => (hsame.streamBit ..).trans (h.padding q hstart hstop)
  exact ⟨r', hop.trans htail, hsame.symm.readerOk hok, hlo, hpos⟩

end RcTable

/-- Settles O41: the size field, the description, then the padding. -/
theorem blockTableIsLoaded : Obligations.BlockTableIsLoaded := by
  intro t size p s hc hp hnext hinside
  have hb : s.BlockOk := ⟨hc, hnext, hinside⟩
  refine ⟨fun e h => (rcTableOp_fails (t := t) hb hp h).runValue, fun tsz runs nodes h => ?_⟩
  obtain ⟨r, hop, hok, hlo, hpos⟩ := rcTableOp_of_at (t := t) hb h
  refine ⟨r, (runValue_of_ok hop).trans ?_, hok, hlo, hpos⟩
  cases t <;> rfl

/-! ### A compressed block (rules R118, R124) -/

section RcComp
variable {s : State} {tsz1 tsz2 : Nat} {runs1 runs2 : List Run} {nodes1 nodes2 : List Node} {e : ErrCode}

/-- The block's tables and the reader of its body. -/
def rcTablesOp : Op Unit := do
  let s ← get
  let e1 ← rcTableOp .t1 s.cfg.rcS1 0
  let e2 ← rcTableOp .t2 s.cfg.rcS2 e1
  brInitOp (s.rc.payload + e2 / 8) s.rc.next (some (s.rc.n - e2))
  rcNextOp

/-- The state in which a block's end has been computed. -/
def State.rcBounded (s : State) : State := s.setRc { s.rc with next := s.rc.payload + ceil8 s.rc.n }

theorem rcCompOp_of_cut (h : s.inLen.toNat < s.rc.payload + ceil8 s.rc.n) :
    rcCompOp s = .error (.error .truncatedInput) s.rcBounded := by
  simp only [rcCompOp, Op.bind_apply, update_apply, Op.get_apply, Op.ite_apply]
  exact if_pos h

theorem rcCompOp_of_inside (h : s.rc.payload + ceil8 s.rc.n ≤ s.inLen.toNat) : rcCompOp s = rcTablesOp s.rcBounded := by
  simp only [rcCompOp, rcTablesOp, Op.bind_apply, update_apply, Op.get_apply, Op.ite_apply]
  exact if_neg (Nat.not_lt.mpr h)

theorem rcTableEnd_mod {p tsz : Nat} (h : p % 8 = 0) : rcTableEnd p tsz % 8 = 0 := by
  unfold rcTableEnd
  omega

theorem rcTablesOp_fails_of_first (hb : s.BlockOk) (h : s.RcTableFails s.rc.payload 0 s.rc.n s.cfg.rcS1 e) :
    s.Fails rcTablesOp e :=
  .of_ok (Op.get_apply s) rfl ((rcTableOp_fails hb rfl h).bind _)

theorem rcTablesOp_fails_of_second (hb : s.BlockOk)
    (h1 : s.RcTableAt s.rc.payload 0 s.rc.n s.cfg.rcS1 tsz1 runs1 nodes1)
    (h : s.RcTableFails s.rc.payload (rcTableEnd 0 tsz1) s.rc.n s.cfg.rcS2 e) : s.Fails rcTablesOp e := by
  obtain ⟨r, hop, -, -, -⟩ := rcTableOp_of_at (t := .t1) hb h1
  have hsame := s.sameInput_loaded r .t1 (loadedTable s.cfg.rcS1 runs1 nodes1)
  exact .of_ok (Op.get_apply s) rfl (.of_ok hop rfl
    ((rcTableOp_fails (hb.of_sameInput hsame rfl) (rcTableEnd_mod rfl) (hsame.rcTableFails h)).bind _))

theorem rcTablesOp_of_at (hb : s.BlockOk)
    (h1 : s.RcTableAt s.rc.payload 0 s.rc.n s.cfg.rcS1 tsz1 runs1 nodes1)
    (h2 : s.RcTableAt s.rc.payload (rcTableEnd 0 tsz1) s.rc.n s.cfg.rcS2 tsz2 runs2 nodes2) :
    rcTablesOp s = rcNextOp
      { s with
        t1 := loadedTable s.cfg.rcS1 runs1 nodes1, t2 := loadedTable s.cfg.rcS2 runs2 nodes2
        br := some (BitReader.init (s.rc.payload + rcTableEnd (rcTableEnd 0 tsz1) tsz2 / 8) s.rc.next
          (some (s.rc.n - rcTableEnd (rcTableEnd 0 tsz1) tsz2))) } := by
  obtain ⟨r, hop, -, -, -⟩ := rcTableOp_of_at (t := .t1) hb h1
  have hsame := s.sameInput_loaded r .t1 (loadedTable s.cfg.rcS1 runs1 nodes1)
  obtain ⟨r', hop', -, -, -⟩ := rcTableOp_of_at (t := .t2) (hb.of_sameInput hsame rfl) (hsame.rcTableAt h2)
  simp only [rcTablesOp, Op.bind_apply, Op.get_apply, hop, hop', brInitOp, update_apply]
  simp only [State.setReader, State.setTable]

end RcComp

/-- Settles O42: the header opens the block, whose tables and body reader follow. -/
theorem compressedBlockOpensItsBody : Obligations.CompressedBlockOpensItsBody := by
  intro n s i hc hhead hrow
  have hcomp : exec i s = exec (.rcBlkComp n) s := by
    rcases hrow with rfl | ⟨rfl, hw⟩
    · rfl
    · exact exec_rcBlock_of_comp hc hhead hw
  have hopen : exec (.rcBlkComp n) s = runOp rcCompOp (s.rcOpened n.toNat) :=
    runOp_congr (by rw [Op.bind_apply, rcOpenOp_of_le hc hhead])
  rw [hcomp, hopen]
  refine ⟨fun hcut => (runOp_of_error (rcCompOp_of_cut (s := s.rcOpened n.toNat) hcut)).trans rfl, fun hinside => ?_⟩
  have hbounded : runOp rcCompOp (s.rcOpened n.toNat) = runOp rcTablesOp (s.rcOpened n.toNat).rcBounded :=
    runOp_congr (rcCompOp_of_inside (s := s.rcOpened n.toNat) hinside)
  have hsame : s.SameInput (s.rcOpened n.toNat).rcBounded := ⟨fun _ => rfl, rfl, rfl⟩
  have hb : (s.rcOpened n.toNat).rcBounded.BlockOk := ⟨hc, rfl, hinside⟩
  rw [hbounded]
  refine ⟨fun e h => ?first, fun tsz1 runs1 nodes1 h1 => ⟨fun e h => ?second, fun tsz2 runs2 nodes2 h2 => ?both⟩⟩
  case first => exact (rcTablesOp_fails_of_first hb (hsame.rcTableFails h)).runOp
  case second => exact (rcTablesOp_fails_of_second hb (hsame.rcTableAt h1) (hsame.rcTableFails h)).runOp
  case both =>
    refine (runOp_congr (rcTablesOp_of_at hb (hsame.rcTableAt h1) (hsame.rcTableAt h2))).trans
      ((runOp_of_ok (rcNextOp_of_some rfl)).trans ?_)
    rw [BitReader.pos_init]
    simp only [State.compStepped, BitReader.init, Option.getD_some, Nat.sub_pos_iff_lt]
    rfl

end Sys2Proof.Machine

namespace Sys2Proof.Machine

/-! ## What operations leave alone, and what of IN they look at

Two facts of one shape, proved once per operation: how far its writes reach (rules R33, R34), and that it does the same
on other contents of IN that agree below IN_LEN (rule R33). -/

/-! ### How far an operation's writes reach -/

/-- The input, the configuration and the host's own fields are the same. -/
structure State.SameIo (s t : State) : Prop where
  inMem : t.inMem = s.inMem := by rfl
  hint : t.hint = s.hint := by rfl
  inLen : t.inLen = s.inLen := by rfl
  cfg : t.cfg = s.cfg := by rfl
  resets : t.resets = s.resets := by rfl
  host : t.host = s.host := by rfl
  hostData : t.hostData = s.hostData := by rfl

theorem State.SameIo.refl (s : State) : s.SameIo s := {}

theorem State.SameIo.trans {s t u : State} (h : s.SameIo t) (h' : t.SameIo u) : s.SameIo u where
  inMem := h'.inMem.trans h.inMem
  hint := h'.hint.trans h.hint
  inLen := h'.inLen.trans h.inLen
  cfg := h'.cfg.trans h.cfg
  resets := h'.resets.trans h.resets
  host := h'.host.trans h.host
  hostData := h'.hostData.trans h.hostData

/-- Nothing but the reader and the tables is written. -/
def State.Still (s t : State) : Prop := ∃ br t1 t2, t = { s with br := br, t1 := t1, t2 := t2 }

/-- OUT is written, if at all, between the cursor and the declared length, and the cursor does not go back. -/
structure State.WrittenInside (s t : State) : Prop extends s.SameIo t where
  declared : t.declared = s.declared := by rfl
  cursor : s.oc ≤ t.oc := by exact Nat.le_refl _
  out : ∀ a, a < s.oc ∨ s.declared ≤ a → t.outByte a = s.outByte a := by exact fun _ _ => rfl
  outWf : Memory.wf s.outMem → Memory.wf t.outMem := by exact fun h => h

/-- OUT is not written. -/
structure State.OutKept (s t : State) : Prop extends s.SameIo t where
  outMem : t.outMem = s.outMem := by rfl

/-- How far an operation's writes reach. -/
inductive Reach
  /-- the reader and the tables. -/
  | still
  /-- registers other than the declared length, and OUT inside the declared length. -/
  | inside
  /-- every register, and OUT not at all. -/
  | outKept

/-- The relation of a reach. -/
def Reach.Rel : Reach → State → State → Prop
  | .still => State.Still
  | .inside => State.WrittenInside
  | .outKept => State.OutKept

section Reach
variable {k : Reach} {s t u : State}

theorem Reach.refl (k : Reach) (s : State) : k.Rel s s := by
  cases k with
  | still => exact ⟨_, _, _, rfl⟩
  | inside => exact {}
  | outKept => exact {}

theorem State.WrittenInside.trans (h : s.WrittenInside t) (h' : t.WrittenInside u) : s.WrittenInside u where
  toSameIo := h.toSameIo.trans h'.toSameIo
  declared := h'.declared.trans h.declared
  cursor := h.cursor.trans h'.cursor
  out a ha := (h'.out a (ha.imp (Nat.lt_of_lt_of_le · h.cursor) (h.declared.trans_le ·))).trans (h.out a ha)
  outWf hwf := h'.outWf (h.outWf hwf)

theorem Reach.trans (h : k.Rel s t) (h' : k.Rel t u) : k.Rel s u := by
  cases k with
  | still =>
    obtain ⟨_, _, _, rfl⟩ := h
    obtain ⟨_, _, _, rfl⟩ := h'
    exact ⟨_, _, _, rfl⟩
  | inside => exact State.WrittenInside.trans h h'
  | outKept => exact { toSameIo := h.toSameIo.trans h'.toSameIo, outMem := h'.outMem.trans h.outMem }

theorem Reach.of_still (h : s.Still t) (k : Reach) : k.Rel s t := by
  obtain ⟨br, t1, t2, rfl⟩ := h
  cases k with
  | still => exact ⟨_, _, _, rfl⟩
  | inside => exact {}
  | outKept => exact {}

theorem Reach.sameIo (h : k.Rel s t) : s.SameIo t := by
  cases k with
  | still =>
    obtain ⟨_, _, _, rfl⟩ := h
    exact {}
  | inside => exact h.toSameIo
  | outKept => exact h.toSameIo

/-- What every reach leaves of OUT. -/
structure State.Framed (s t : State) : Prop extends s.SameIo t where
  out : ∀ a, a < s.oc ∨ s.declared ≤ a → t.outByte a = s.outByte a
  outWf : Memory.wf s.outMem → Memory.wf t.outMem

theorem Reach.framed (h : k.Rel s t) : s.Framed t := by
  cases k with
  | still =>
    obtain ⟨_, _, _, rfl⟩ := h
    exact { out := fun _ _ => rfl, outWf := fun hwf => hwf }
  | inside => exact { toSameIo := h.toSameIo, out := h.out, outWf := h.outWf }
  | outKept =>
    exact {
      toSameIo := h.toSameIo
      out := fun a _ => by rw [State.outByte, State.outByte, h.outMem, h.resets]
      outWf := fun hwf => h.outMem ▸ hwf }

theorem State.Framed.raise (h : s.Framed t) (e : ErrCode) : s.Framed (t.raise e) where
  toSameIo := h.toSameIo.trans {}
  out := h.out
  outWf := h.outWf

theorem State.Framed.setRet (h : s.Framed t) (n : Nat) : s.Framed (t.setRet n) where
  toSameIo := h.toSameIo.trans {}
  out := h.out
  outWf := h.outWf

end Reach

/-! ### Operations that look at IN below IN_LEN alone -/

/-- Other contents of IN that agree below IN_LEN (rule R33). -/
def State.AgreesBelow (s : State) (m : Memory) : Prop := ∀ a < s.inLen.toNat, (s.withIn m).inByte a = s.inByte a

theorem State.SameIo.agreesBelow {s t : State} (h : s.SameIo t) {m : Memory} (hm : s.AgreesBelow m) :
    t.AgreesBelow m := by
  intro a ha
  rw [h.inLen] at ha
  have hbyte := hm a ha
  simp only [State.inByte, State.withIn] at hbyte ⊢
  rw [h.resets, h.inMem]
  exact hbyte

/-- A result in a state changed by a function. -/
def mapResult {α : Type} (f : State → State) : EStateM.Result Stop State α → EStateM.Result Stop State α
  | .ok a t => .ok a (f t)
  | .error e t => .error e (f t)

/-- Pseudocode whose writes stay within a reach, and which does the same on other contents of IN that agree below
IN_LEN. -/
structure Op.Local {α : Type} (k : Reach) (op : Op α) : Prop where
  keeps : Op.Keeps k.Rel op
  withIn : ∀ s m, State.AgreesBelow s m → op (s.withIn m) = mapResult (·.withIn m) (op s)

namespace Op.Local
variable {α β : Type} {k : Reach}

theorem of_still {op : Op α} (h : Op.Local .still op) : Op.Local k op :=
  ⟨fun s => Reach.of_still (h.keeps s) k, h.withIn⟩

theorem pure (a : α) : Op.Local k (Pure.pure a : Op α) := ⟨.pure k.refl a, fun _ _ _ => rfl⟩

theorem raised (e : ErrCode) : Op.Local k (raised e : Op α) := ⟨.raised k.refl e, fun _ _ _ => rfl⟩

theorem faulted (f : Fault) : Op.Local k (faulted f : Op α) := ⟨.faulted k.refl f, fun _ _ _ => rfl⟩

theorem update {f : State → State} (hk : ∀ s, k.Rel s (f s))
    (hf : ∀ s m, f (State.withIn s m) = (f s).withIn m := by intros; rfl) : Op.Local k (update f) :=
  ⟨.update hk, fun s m _ => congrArg (EStateM.Result.ok ()) (hf s m)⟩

/-- Registers written aside from OUT and the declared length. -/
theorem inside {f : State → State} (hk : ∀ s, State.WrittenInside s (f s) := by exact fun _ => {})
    (hf : ∀ s m, f (State.withIn s m) = (f s).withIn m := by intros; rfl) : Op.Local .inside (Machine.update f) :=
  .update hk hf

/-- Registers written aside from OUT. -/
theorem outKept {f : State → State} (hk : ∀ s, State.OutKept s (f s) := by exact fun _ => {})
    (hf : ∀ s m, f (State.withIn s m) = (f s).withIn m := by intros; rfl) : Op.Local .outKept (Machine.update f) :=
  .update hk hf

/-- A choice between updates whose condition is not one on the contents of IN. -/
theorem update_ite {c : State → Prop} [DecidablePred c] {f g : State → State}
    (hc : ∀ s m, c (State.withIn s m) = c s) (hf : Op.Local k (Machine.update f)) (hg : Op.Local k (Machine.update g)) :
    Op.Local k (Machine.update fun s => if c s then f s else g s) where
  keeps s := by
    change k.Rel s (if c s then f s else g s)
    split
    · exact hf.keeps s
    · exact hg.keeps s
  withIn s m hm := by
    simp only [update_apply, hc]
    split
    · exact hf.withIn s m hm
    · exact hg.withIn s m hm

theorem bind {x : Op α} {f : α → Op β} (hx : Op.Local k x) (hf : ∀ a, Op.Local k (f a)) : Op.Local k (x >>= f) where
  keeps := Op.Keeps.bind (R := k.Rel) (fun _ _ _ => Reach.trans) hx.keeps fun a => (hf a).keeps
  withIn s m hm := by
    have hkeep := hx.keeps s
    rw [Op.bind_apply, Op.bind_apply, hx.withIn s m hm]
    unfold Op.after at hkeep
    cases hop : x s with
    | ok a t =>
      rw [hop] at hkeep
      exact (hf a).withIn t m ((Reach.sameIo hkeep).agreesBelow hm)
    | error e t => rfl

theorem get_bind {f : State → Op α} (hf : ∀ s, Op.Local k (f s))
    (hs : ∀ s m, f (State.withIn s m) = f s := by intros; rfl) : Op.Local k (get >>= f) where
  keeps s := (hf s).keeps s
  withIn s m hm := (congrFun (hs s m) _).trans ((hf s).withIn s m hm)

theorem ite {c : Prop} [Decidable c] {x y : Op α} (hx : Op.Local k x) (hy : Op.Local k y) :
    Op.Local k (if c then x else y) := by
  split
  · exact hx
  · exact hy

/-- Pseudocode given by what it answers in each state: a check that writes nothing. -/
theorem check {c : State → Prop} [DecidablePred c] {e : Stop} (hc : ∀ s m, c (State.withIn s m) = c s) :
    Op.Local k (fun s => if c s then .error e s else .ok () s) where
  keeps s := by
    by_cases h : c s <;> simp [Op.after, h, Reach.refl]
  withIn s m _ := by
    simp only [hc]
    split <;> rfl

end Op.Local

/-! ### The memories and the window -/

section Operations
variable {k : Reach}

theorem State.inBytes_withIn {s : State} {m : Memory} (hm : s.AgreesBelow m) {a n : Nat}
    (h : a + n ≤ s.inLen.toNat) : (s.withIn m).inBytes a n = s.inBytes a n := by
  induction n generalizing a with
  | zero => rfl
  | succ n ih => rw [State.inBytes, State.inBytes, hm a (by omega), ih (by omega)]

theorem memRead_local (a n : Nat) : Op.Local k (memRead a n) where
  keeps s := by
    rcases memRead_cases s a n with h | h | ⟨-, h⟩ <;> rw [Op.after, h] <;> exact k.refl s
  withIn s m hm := by
    have hlen : (s.withIn m).inLen = s.inLen := rfl
    have hcfg : (s.withIn m).cfg = s.cfg := rfl
    simp only [memRead, hlen, hcfg]
    split
    · rfl
    · split
      · rfl
      · rw [State.inBytes_withIn hm (by omega)]
        rfl

theorem be16_local (a : Nat) : Op.Local k (be16 a) := (memRead_local a 2).bind fun _ => .pure _

theorem be32_local (a : Nat) : Op.Local k (be32 a) := (memRead_local a 4).bind fun _ => .pure _

theorem le16_local (a : Nat) : Op.Local k (le16 a) := (memRead_local a 2).bind fun _ => .pure _

theorem le32_local (a : Nat) : Op.Local k (le32 a) := (memRead_local a 4).bind fun _ => .pure _

theorem takeBytes_local (n : Nat) : Op.Local .inside (takeBytes n) :=
  .get_bind fun s => (memRead_local s.ip n).bind fun _ => Op.Local.bind .inside fun _ => .pure _

theorem State.WrittenInside.emit {s : State} (b : Byte) (h : s.oc < s.declared) : s.WrittenInside (s.emit b) where
  cursor := Nat.le_succ _
  out a ha := State.outByte_emit_other s b (by omega)
  outWf hwf := s.emit_outWf b hwf

theorem State.WrittenInside.emitAll {bs : List Byte} {s : State} (h : s.oc + bs.length ≤ s.declared) :
    s.WrittenInside (State.emitAll bs s) := by
  induction bs generalizing s with
  | nil => exact {}
  | cons b bs ih =>
    rw [List.length_cons] at h
    exact (State.WrittenInside.emit b (by omega)).trans
      (ih (by rw [State.emit_oc, State.emit_declared]; omega))

theorem State.WrittenInside.copyBytes {n d : Nat} {s : State} (h : s.oc + n ≤ s.declared) :
    s.WrittenInside (State.copyBytes n d s) := by
  induction n generalizing s with
  | zero => exact {}
  | succ n ih =>
    exact (State.WrittenInside.emit _ (by omega)).trans (ih (by rw [State.emit_oc, State.emit_declared]; omega))

theorem emitByte_local (b : Byte) : Op.Local .inside (emitByte b) where
  keeps s := by
    rcases emitByte_cases s b with ⟨hlt, h⟩ | ⟨-, h⟩ <;> rw [Op.after, h]
    · exact .emit b hlt
    · exact Reach.inside.refl s
  withIn s m _ := by
    rcases emitByte_cases s b with ⟨hlt, h⟩ | ⟨hle, h⟩ <;> rw [h]
    · exact emitByte_of_lt (s := s.withIn m) b hlt
    · exact if_neg (Nat.not_lt.mpr hle)

theorem State.copyBytes_withIn (n d : Nat) (s : State) (m : Memory) :
    State.copyBytes n d (s.withIn m) = (State.copyBytes n d s).withIn m := by
  induction n generalizing s with
  | zero => rfl
  | succ n ih => exact ih (s.emit (s.outByte (s.oc - d)))

theorem State.emitAll_withIn (bs : List Byte) (s : State) (m : Memory) :
    State.emitAll bs (s.withIn m) = (State.emitAll bs s).withIn m := by
  induction bs generalizing s with
  | nil => rfl
  | cons b bs ih => exact ih (s.emit b)

theorem copyOp_local (length distance : Nat) : Op.Local .inside (copyOp length distance) where
  keeps s := by
    unfold Op.after copyOp
    split_ifs with hdist hlen
    · exact Reach.inside.refl s
    · exact Reach.inside.refl s
    · exact .copyBytes (Nat.not_lt.mp hlen)
  withIn s m _ := by
    have hoc : (s.withIn m).oc = s.oc := rfl
    have hdeclared : (s.withIn m).declared = s.declared := rfl
    simp only [copyOp, hoc, hdeclared]
    split
    · rfl
    · split
      · rfl
      · exact congrArg (EStateM.Result.ok ()) (State.copyBytes_withIn length distance s m)

/-- The end of a token, whose registers are written aside from OUT. -/
theorem lzNext_local : Op.Local .inside (update State.lzNext) := by
  unfold State.lzNext
  exact .update_ite (fun _ _ => rfl) .inside (.update_ite (fun _ _ => rfl) .inside .inside)

theorem lzRefOp_local (n length distance : Nat) : Op.Local .inside (lzRefOp n length distance) :=
  (takeBytes_local n).bind fun _ => (copyOp_local length distance).bind fun _ => lzNext_local

/-! ### DISPATCH -/

theorem capacityCheckOp_local (len : Nat) : Op.Local k (capacityCheckOp len) := .check fun _ _ => rfl

theorem tagPresentOp_local : Op.Local k tagPresentOp :=
  .get_bind fun _ => .ite ((memRead_local 0 5).bind fun _ => .pure _) (.pure _)

theorem headerAddress_local : Op.Local k headerAddress := tagPresentOp_local.bind fun _ => .pure _

theorem enter_local (f : Format) (len : Nat) : Op.Local .outKept (update fun s => s.enter f len) :=
  match f with
  | .lz10 | .lz11 | .n64lz => .update_ite (fun _ _ => rfl) .outKept .outKept
  | .huf8 | .lzh8 => .outKept
  | .romchu => .update_ite (fun _ _ => rfl) .outKept .outKept

theorem dispatchCommit_local (f : Format) (len next : Nat) : Op.Local .outKept (dispatchCommit f len next) :=
  Op.Local.bind .outKept fun _ => (capacityCheckOp_local len).bind fun _ => enter_local f len

theorem dispatchLeOp_local (f : Format) (len : Nat) : Op.Local .outKept (dispatchLeOp f len) :=
  headerAddress_local.bind fun h => (memRead_local h 4).bind fun _ =>
    .get_bind fun _ => .ite (.raised _) (dispatchCommit_local f len _)

theorem dispatchBeOp_local (f : Format) (len : Nat) : Op.Local .outKept (dispatchBeOp f len) :=
  (memRead_local 0 4).bind fun _ => .get_bind fun _ => .ite (.raised _) (dispatchCommit_local f len _)

theorem dispatchOp_local : Op.Local .outKept dispatchOp := by
  refine .get_bind fun _ => .ite (.raised _) (.ite ((be32_local 0).bind fun w => ?be)
    (headerAddress_local.bind fun h => (le32_local h).bind fun w => ?le))
  case be => exact .ite (dispatchBeOp_local _ _) (.ite (dispatchBeOp_local _ _) (.raised _))
  case le =>
    exact .ite (dispatchLeOp_local _ _) (.ite (dispatchLeOp_local _ _) (.ite (dispatchLeOp_local _ _)
      (.ite (dispatchLeOp_local _ _) (.raised _))))

/-! ### Huf8 -/

theorem h8SetupOp_local : Op.Local .inside h8SetupOp :=
  (memRead_local 4 1).bind fun _ => Op.Local.bind .inside fun _ => .get_bind fun _ =>
    .ite .inside (.ite (.raised _) .inside)

theorem poolBit_local : Op.Local .inside poolBit := by
  have deliver : Op.Local .inside (do
      let s ← get
      update fun s => s.setH8 { s.h8 with pbits := s.h8.pbits - 1 }
      return s.h8.pw.getLsbD (s.h8.pbits - 1)) :=
    .get_bind fun _ => Op.Local.bind .inside fun _ => .pure _
  exact .get_bind fun s => .ite
    ((memRead_local s.h8.pidx 4).bind fun _ => Op.Local.bind .inside fun _ => deliver) deliver

theorem checkChildOp_local (child : Nat) : Op.Local k (checkChildOp child) where
  keeps s := by
    unfold Op.after checkChildOp
    split_ifs <;> exact k.refl s
  withIn s m _ := by
    have hh8 : (s.withIn m).h8 = s.h8 := rfl
    simp only [checkChildOp, hh8]
    split_ifs <;> rfl

theorem emitLeafOp_local (child : Nat) : Op.Local .inside (emitLeafOp child) :=
  (memRead_local (5 + child) 1).bind fun _ => (emitByte_local _).bind fun _ =>
    .update_ite (fun _ _ => rfl) .inside .inside

theorem h8EdgeOp_local (b : Nat) (leaf : Byte → Bool) : Op.Local .inside (h8EdgeOp b leaf) :=
  poolBit_local.bind fun _ => .get_bind fun _ => (memRead_local _ 1).bind fun _ =>
    (checkChildOp_local _).bind fun _ => .ite (emitLeafOp_local _) .inside

/-! ### The bit reader -/

theorem reader_local : Op.Local k reader where
  keeps s := by
    unfold Op.after reader
    cases s.br <;> exact k.refl s
  withIn s m _ := by
    have hbr : (s.withIn m).br = s.br := rfl
    simp only [reader, hbr]
    cases s.br <;> rfl

/-- The reader is written aside from everything else. -/
theorem setReader_local (r : BitReader) : Op.Local k (update fun s => s.setReader r) :=
  .of_still (.update fun _ => ⟨_, _, _, rfl⟩)

theorem brInitOp_local (lo hi : Nat) (limit : Option Nat) : Op.Local k (brInitOp lo hi limit) := setReader_local _

theorem nextBit_local : Op.Local k nextBit := by
  have refilled (r : BitReader) : Op.Local k (refill r) :=
    .ite (.raised _) ((memRead_local r.idx 1).bind fun _ => .pure _)
  have deliver (r : BitReader) : Op.Local k (do
      update fun s => s.setReader { r with nbits := r.nbits - 1 }
      return r.cur.getLsbD (r.nbits - 1)) := (setReader_local _).bind fun _ => .pure _
  exact reader_local.bind fun r => .ite (.raised _) (.ite ((refilled r).bind deliver) ((Op.Local.pure r).bind deliver))

theorem readBitsFrom_local (v n : Nat) : Op.Local k (readBitsFrom v n) := by
  induction n generalizing v with
  | zero => exact .pure v
  | succ n ih => exact nextBit_local.bind fun b => ih _

theorem readBits_local (n : Nat) : Op.Local k (readBits n) := readBitsFrom_local 0 n

theorem checkZeroBits_local (lo q n : Nat) : Op.Local k (checkZeroBits lo q n) := by
  induction n generalizing q with
  | zero => exact .pure ()
  | succ n ih => exact (memRead_local _ 1).bind fun _ => .ite (.raised _) (ih _)

theorem brCheckpadOp_local (endBit : Nat) : Op.Local k (brCheckpadOp endBit) :=
  reader_local.bind fun r => (checkZeroBits_local r.lo r.pos _).bind fun _ => setReader_local _

/-! ### Huffman tables -/

/-- A table is written aside from everything else. -/
theorem setTable_local (t : TableId) {x : State → Table} (hx : ∀ s m, x (State.withIn s m) = x s) :
    Op.Local k (update fun s => s.setTable t (x s)) :=
  .of_still (.update (fun _ => by cases t <;> exact ⟨_, _, _, rfl⟩)
    fun s m => by cases t <;> simp only [hx] <;> rfl)

theorem setLens_local (t : TableId) (i : Nat) (new : List Nat) : Op.Local k (update fun s => s.setLens t i new) :=
  setTable_local t fun _ _ => by cases t <;> rfl

theorem runEqualOp_local (t : TableId) (i : Nat) : Op.Local k (runEqualOp t i) :=
  .get_bind (fun _ => (readBits_local _).bind fun _ => .ite (.raised _)
    ((readBits_local _).bind fun _ => (setLens_local t i _).bind fun _ => .pure _)) fun _ _ => by cases t <;> rfl

theorem readLens_local (w n : Nat) : Op.Local k (readLens w n) := by
  induction n with
  | zero => exact .pure []
  | succ n ih => exact (readBits_local w).bind fun _ => ih.bind fun _ => .pure _

theorem runSetOp_local (t : TableId) (i : Nat) : Op.Local k (runSetOp t i) :=
  .get_bind (fun _ => (readBits_local _).bind fun _ => .ite (.raised _)
    ((readLens_local _ _).bind fun _ => (setLens_local t i _).bind fun _ => .pure _)) fun _ _ => by cases t <;> rfl

theorem runsOp_local (t : TableId) (fuel i : Nat) : Op.Local k (runsOp t fuel i) := by
  induction fuel generalizing i with
  | zero => exact .pure ()
  | succ fuel ih =>
    exact .get_bind (fun _ => .ite ((readBits_local 1).bind fun _ =>
      .ite ((runEqualOp_local t i).bind ih) ((runSetOp_local t i).bind ih)) (.pure ())) fun _ _ => by cases t <;> rfl

theorem State.table_withIn (s : State) (m : Memory) (t : TableId) : (s.withIn m).table t = s.table t := by
  cases t <;> rfl

theorem htBuildOp_local (t : TableId) : Op.Local k (htBuildOp t) := by
  refine .of_still ⟨fun s => ?_, fun s m _ => ?_⟩
  · unfold Op.after htBuildOp
    cases buildTree s.cfg (s.table t).len with
    | none => exact Reach.still.refl s
    | some nodes => cases t <;> exact ⟨_, _, _, rfl⟩
  · have hcfg : (s.withIn m).cfg = s.cfg := rfl
    simp only [htBuildOp, hcfg, State.table_withIn]
    cases buildTree s.cfg (s.table t).len with
    | none => rfl
    | some nodes => cases t <;> rfl

theorem htLoadOp_local (t : TableId) (size : Nat) : Op.Local k (htLoadOp t size) :=
  (setTable_local t fun _ _ => rfl).bind fun _ => (runsOp_local t size 0).bind fun _ => htBuildOp_local t

theorem walk_local (nodes : List Node) (fuel c : Nat) : Op.Local k (walk nodes fuel c) := by
  induction fuel generalizing c with
  | zero => exact .raised _
  | succ fuel ih =>
    refine nextBit_local.bind fun b => ?_
    split
    · exact .raised _
    · split
      · exact .pure _
      · exact ih _

theorem decodeSymbol_local (t : TableId) : Op.Local k (decodeSymbol t) :=
  .get_bind (fun _ => reader_local.bind fun _ => walk_local _ _ _) fun _ _ => by cases t <;> rfl

/-! ### LZH8 -/

theorem lzh8LengthOp_local : Op.Local .outKept lzh8LengthOp := by
  refine .get_bind fun s => .ite ?_ (.pure 4)
  cases s.cfg.extLenMode with
  | error => exact .raised _
  | read => exact (le32_local 4).bind fun len => Op.Local.bind .outKept fun _ =>
      (capacityCheckOp_local len).bind fun _ => .pure 8

theorem lzh8TableOp_local (t : TableId) (size a : Nat) : Op.Local k (lzh8TableOp t size a) :=
  (le16_local a).bind fun _ => .get_bind fun _ => .ite (.raised _)
    ((brInitOp_local _ _ _).bind fun _ => (htLoadOp_local t size).bind fun _ => .pure _)

theorem lzh8SetupOp_local : Op.Local .outKept lzh8SetupOp :=
  lzh8LengthOp_local.bind fun a => .get_bind fun _ => .ite .outKept <|
    (lzh8TableOp_local .t1 _ a).bind fun a => (lzh8TableOp_local .t2 _ a).bind fun a =>
      (brInitOp_local a _ _).bind fun _ => .outKept

theorem lzh8Next_local : Op.Local .inside (update State.lzh8Next) := by
  unfold State.lzh8Next
  exact .update_ite (fun _ _ => rfl) .inside .inside

theorem lzh8DispnOp_local (displen : Nat) : Op.Local k (lzh8DispnOp displen) :=
  (readBits_local _).bind fun _ => .pure _

theorem lzh8DispOp_local (displen : Nat) : Op.Local k (lzh8DispOp displen) := .ite (.pure 0) (lzh8DispnOp_local _)

theorem lzh8RefOp_local (length : Nat) : Op.Local .inside (lzh8RefOp length) :=
  (decodeSymbol_local .t1).bind fun _ => (decodeSymbol_local .t2).bind fun displen =>
    (lzh8DispOp_local displen).bind fun _ => (copyOp_local length _).bind fun _ => lzh8Next_local

/-! ### Romchu -/

theorem rcHeaderOp_local : Op.Local k rcHeaderOp := .get_bind fun _ => .ite (.raised _) (be32_local _)

theorem rcOpenOp_local (n : Nat) : Op.Local .inside (rcOpenOp n) := rcHeaderOp_local.bind fun _ => .inside

/-- The bytes of a raw block are written, and the cursor moves behind it (rule R117). -/
def State.rawWritten (bs : List Byte) (s : State) : State :=
  let s := s.emitAll bs
  let next := s.rc.payload + s.rc.n
  let s := (s.setIp next).setRc { s.rc with next := next }
  if s.oc = s.declared then s.complete else s.setPhase .rcBlock

theorem rcRawOp_eq (s : State) : rcRawOp s =
    if s.declared < s.oc + s.rc.n then .error (.error .lengthMismatch) s
    else if s.inLen.toNat < s.rc.payload + s.rc.n then .error (.error .truncatedInput) s
    else (memRead s.rc.payload s.rc.n >>= fun bs => update (State.rawWritten bs)) s := by
  simp only [rcRawOp, Op.bind_apply, Op.get_apply, Op.ite_apply, raised_apply]
  rfl

theorem State.rawWritten_withIn (bs : List Byte) (s : State) (m : Memory) :
    State.rawWritten bs (s.withIn m) = (State.rawWritten bs s).withIn m := by
  simp only [State.rawWritten, State.emitAll_withIn]
  generalize State.emitAll bs s = u
  by_cases h : u.oc = u.declared <;>
    simp [h, State.withIn, State.setIp, State.setRc, State.complete, State.setPhase]

theorem State.WrittenInside.rawWritten {bs : List Byte} {s : State} (h : s.oc + bs.length ≤ s.declared) :
    s.WrittenInside (State.rawWritten bs s) := by
  refine (State.WrittenInside.emitAll h).trans ?_
  simp only [State.rawWritten]
  split_ifs <;> exact {}

theorem rcRawOp_local : Op.Local .inside rcRawOp where
  keeps s := by
    rw [Op.after, rcRawOp_eq]
    split_ifs with hlen hin
    · exact Reach.inside.refl s
    · exact Reach.inside.refl s
    · rw [Op.bind_apply]
      rcases memRead_cases s s.rc.payload s.rc.n with h | h | ⟨-, h⟩ <;> rw [h]
      · exact Reach.inside.refl s
      · exact Reach.inside.refl s
      · exact .rawWritten (by rw [State.inBytes_length]; omega)
  withIn s m hm := by
    have hread := (memRead_local (k := .inside) s.rc.payload s.rc.n).withIn s m hm
    have hdeclared : (s.withIn m).declared = s.declared := rfl
    have hoc : (s.withIn m).oc = s.oc := rfl
    have hinLen : (s.withIn m).inLen = s.inLen := rfl
    have hrc : (s.withIn m).rc = s.rc := rfl
    rw [rcRawOp_eq, rcRawOp_eq, hdeclared, hoc, hinLen, hrc]
    split_ifs
    · rfl
    · rfl
    · rw [Op.bind_apply, Op.bind_apply, hread]
      cases memRead s.rc.payload s.rc.n s with
      | ok bs t => exact congrArg (EStateM.Result.ok ()) (State.rawWritten_withIn bs t m)
      | error e t => rfl

theorem rcNextOp_local : Op.Local .inside rcNextOp :=
  reader_local.bind fun _ => .update_ite (fun _ _ => rfl) .inside (.update_ite (fun _ _ => rfl) .inside .inside)

theorem rcTableOp_local (t : TableId) (size p : Nat) : Op.Local k (rcTableOp t size p) :=
  .get_bind fun _ => .ite (.raised _) <| (brInitOp_local _ _ _).bind fun _ =>
    (readBits_local 16).bind fun _ => .ite (.raised _) <| (brInitOp_local _ _ _).bind fun _ =>
      (htLoadOp_local t size).bind fun _ => (brCheckpadOp_local _).bind fun _ => .pure _

theorem rcCompOp_local : Op.Local .inside rcCompOp :=
  Op.Local.bind .inside fun _ => .get_bind fun _ => .ite (.raised _) <|
    (rcTableOp_local .t1 _ 0).bind fun _ => (rcTableOp_local .t2 _ _).bind fun _ =>
      (brInitOp_local _ _ _).bind fun _ => rcNextOp_local

theorem rcBlockOp_local : Op.Local .inside rcBlockOp :=
  rcHeaderOp_local.bind fun _ => (rcOpenOp_local _).bind fun _ => .ite rcRawOp_local rcCompOp_local

theorem rcLenClassOp_local (c : Nat) : Op.Local k (rcLenClassOp c) := by
  unfold rcLenClassOp
  split
  · exact (readBits_local _).bind fun _ => .pure _
  · exact .faulted _

theorem rcDistClassOp_local (dc : Nat) : Op.Local k (rcDistClassOp dc) := by
  unfold rcDistClassOp
  split
  · exact (readBits_local _).bind fun _ => .pure _
  · exact .faulted _

theorem rcRefOp_local (c : Nat) : Op.Local .inside (rcRefOp c) :=
  (decodeSymbol_local .t1).bind fun _ => (decodeSymbol_local .t2).bind fun dc =>
    (rcLenClassOp_local c).bind fun length => (rcDistClassOp_local dc).bind fun distance =>
      (copyOp_local length distance).bind fun _ => rcNextOp_local

end Operations

/-! ### Every operation (rules R33, R34) -/

/-- An outcome's next state frames the state it starts from, and the outcome is the same on other contents of IN that
agree below IN_LEN. -/
structure ExecLocal (f : State → Host.Outcome State Fault Refusal) : Prop where
  framed : ∀ s t, f s = .next t → s.Framed t
  withIn : ∀ s m, State.AgreesBelow s m → f (s.withIn m) = mapNext (·.withIn m) (f s)

section Exec
variable {k : Reach}

theorem Op.Local.runOp {op : Op Unit} (h : Op.Local k op) : ExecLocal (Machine.runOp op) where
  framed s t hrun := by
    have hkeep := h.keeps s
    unfold Op.after at hkeep
    rcases runOp_next hrun with hop | ⟨e, u, hop, rfl⟩ <;> rw [hop] at hkeep
    · exact Reach.framed hkeep
    · exact (Reach.framed hkeep).raise e
  withIn s m hm := by
    unfold Machine.runOp
    rw [h.withIn s m hm]
    cases op s with
    | ok a t => rfl
    | error e t => cases e <;> rfl

theorem Op.Local.runValue {op : Op Nat} (h : Op.Local k op) : ExecLocal (Machine.runValue op) where
  framed s t hrun := by
    have hkeep := h.keeps s
    unfold Op.after at hkeep
    rcases runValue_next hrun with ⟨v, u, hop, rfl⟩ | ⟨e, u, hop, rfl⟩ <;> rw [hop] at hkeep
    · exact (Reach.framed hkeep).setRet v
    · exact (Reach.framed hkeep).raise e
  withIn s m hm := by
    unfold Machine.runValue
    rw [h.withIn s m hm]
    cases op s with
    | ok a t => rfl
    | error e t => cases e <;> rfl

theorem execCmdStart_local : ExecLocal execCmdStart where
  framed s t h := by
    unfold execCmdStart at h
    split at h <;> cases h
    · exact (Reach.framed (Reach.still.refl s))
    · exact Reach.framed (k := .outKept) (show s.OutKept s.start from {})
  withIn s m _ := by
    unfold execCmdStart
    cases h : s.status.busy <;> simp [State.withIn, h, mapNext, State.start, State.setEngine]

/-- CheckChild for the edge the last pool bit chose, which is no matter of IN. -/
theorem execCheckChild_local (l0 l1 : BitVec 1) (off : BitVec 6) : ExecLocal (execCheckChild l0 l1 off) where
  framed s t h := (checkChildOp_local (k := .still) _).runOp.framed s t h
  withIn s m hm := (checkChildOp_local (k := .still) _).runOp.withIn s m hm

theorem illegalNtypeOp_local : Op.Local .still illegalNtypeOp := (memRead_local 0 4).bind fun _ => .raised _

theorem exec_local (i : Instr) : ExecLocal (exec i) := by
  cases i with
  | cmdStart => exact execCmdStart_local
  | illegalHint7 => exact (Op.Local.raised (k := .still) _).runOp
  | dispatch => exact dispatchOp_local.runOp
  | tagPresent b0 b1 b2 b3 =>
    exact (Op.Local.get_bind (k := .still) fun _ =>
      .ite ((memRead_local 4 1).bind fun _ => .pure _) (.pure 0)).runValue
  | dispatchLz10 len => exact (dispatchLeOp_local _ _).runOp
  | dispatchLz11 len => exact (dispatchLeOp_local _ _).runOp
  | dispatchHuf8 len => exact (dispatchLeOp_local _ _).runOp
  | dispatchLzh8 len => exact (dispatchLeOp_local _ _).runOp
  | illegalLeType type len =>
    exact (headerAddress_local.bind (k := .still) fun h => (memRead_local h 4).bind fun _ => .raised _).runOp
  | dispatchN64lz len => exact (dispatchBeOp_local _ _).runOp
  | dispatchRomchu len => exact (dispatchBeOp_local _ _).runOp
  | illegalNtype0 len => exact illegalNtypeOp_local.runOp
  | illegalNtype3 len => exact illegalNtypeOp_local.runOp
  | capacityCheck len => exact (capacityCheckOp_local (k := .still) len).runOp
  | entry f len => exact (enter_local f len).runOp
  | brInit lo hi limit => exact (brInitOp_local (k := .still) lo hi limit).runOp
  | brReadbits n => exact (readBits_local (k := .still) n).runValue
  | brRefill => exact (nextBit_local.bind (k := .still) fun _ => .pure _).runValue
  | brCheckpad endBit => exact (brCheckpadOp_local (k := .still) endBit).runOp
  | htLoad t size => exact (htLoadOp_local (k := .still) t size).runOp
  | htRunEqual t i => exact (runEqualOp_local (k := .still) t i).runValue
  | htRunSet t i => exact (runSetOp_local (k := .still) t i).runValue
  | htBuild t => exact (htBuildOp_local (k := .still) t).runOp
  | htDecode t => exact (decodeSymbol_local (k := .still) t).runValue
  | lzFlags flag => exact ((takeBytes_local 1).bind fun _ => .inside).runOp
  | lzLit b => exact ((takeBytes_local 1).bind fun _ => (emitByte_local b).bind fun _ => lzNext_local).runOp
  | lz10Ref lm3 dm1 => exact (lzRefOp_local _ _ _).runOp
  | lz11RefShort len1 dm1 => exact (lzRefOp_local _ _ _).runOp
  | lz11RefMed len273 dm1 => exact (lzRefOp_local _ _ _).runOp
  | lz11RefLong len17 dm1 => exact (lzRefOp_local _ _ _).runOp
  | copy length distance => exact (copyOp_local length distance).runOp
  | lzNext => exact lzNext_local.runOp
  | h8Setup => exact h8SetupOp_local.runOp
  | h8Poolbit => exact (poolBit_local.bind fun _ => .pure _).runValue
  | h8Bit0 => exact (h8EdgeOp_local _ _).runOp
  | h8Bit1 => exact (h8EdgeOp_local _ _).runOp
  | emitLeaf child => exact (emitLeafOp_local child).runOp
  | checkChild l0 l1 off => exact execCheckChild_local l0 l1 off
  | lzh8Setup => exact lzh8SetupOp_local.runOp
  | lzh8Lit b =>
    exact ((decodeSymbol_local .t1).bind fun _ => (emitByte_local b).bind fun _ => lzh8Next_local).runOp
  | lzh8Ref len3 => exact (lzh8RefOp_local _).runOp
  | lzh8Disp0 => exact (lzh8DispOp_local (k := .still) 0).runValue
  | lzh8Dispn displen => exact (lzh8DispnOp_local (k := .still) _).runValue
  | lzh8Next => exact lzh8Next_local.runOp
  | rcBlock => exact rcBlockOp_local.runOp
  | rcBlkRaw n => exact ((rcOpenOp_local _).bind fun _ => rcRawOp_local).runOp
  | rcBlkComp n => exact ((rcOpenOp_local _).bind fun _ => rcCompOp_local).runOp
  | rcTable t size p => exact (rcTableOp_local (k := .still) t size p).runValue
  | rcLit b =>
    exact ((decodeSymbol_local .t1).bind fun _ => .get_bind fun _ =>
      .ite (.raised _) ((emitByte_local b).bind fun _ => rcNextOp_local)).runOp
  | rcRef cls => exact (rcRefOp_local _).runOp
  | rcLenClass c => exact (rcLenClassOp_local (k := .still) c).runValue
  | rcDistClass dc => exact (rcDistClassOp_local (k := .still) _).runValue
  | rcNext => exact rcNextOp_local.runOp
  | reservedRcSym1 sym => exact (Op.Local.faulted (k := .still) _).runOp
  | reservedRcSym2 sym => exact (Op.Local.faulted (k := .still) _).runOp
  | raise e => exact (Op.Local.raised (k := .still) e).runOp
  | complete => exact (Op.Local.inside (f := State.complete)).runOp

end Exec

/-- Settles O53: the input, the configuration and the host's fields are outside every operation's reach. -/
theorem noOperationWritesItsInput : Obligations.NoOperationWritesItsInput := by
  intro i s t h
  have hframe := (exec_local i).framed s t h
  exact ⟨hframe.inMem, hframe.hint, hframe.inLen, hframe.cfg, hframe.resets, hframe.host, hframe.hostData⟩

/-- Settles O54: every operation's reach ends at the cursor below and at the declared length above. -/
theorem outIsWrittenOnlyInside : Obligations.OutIsWrittenOnlyInside :=
  fun i s t a h ha => ((exec_local i).framed s t h).out a ha

/-! ### The step looks at IN below IN_LEN alone (rule R33) -/

section Fetch
variable {k : Reach}

theorem lookFlags_local : Op.Local k lookFlags :=
  .get_bind fun _ => (memRead_local _ _).bind fun _ => .pure _

theorem lookToken_local : Op.Local k lookToken := by
  have literal : Op.Local k lookLiteral := .get_bind fun _ => (memRead_local _ _).bind fun _ => .pure _
  have lz10 : Op.Local k lookLz10 := .get_bind fun _ => (be16_local _).bind fun _ => .pure _
  have lz11 : Op.Local k lookLz11 :=
    .get_bind fun _ => (be16_local _).bind fun _ => (memRead_local _ _).bind fun _ => .pure _
  exact .get_bind fun _ => .ite literal (.ite lz10 lz11)

theorem lookPoolBit_local : Op.Local .inside lookPoolBit := poolBit_local.bind fun _ => .pure _

theorem lookSymbol_local (c : Context) : Op.Local k (lookSymbol c) :=
  (decodeSymbol_local .t1).bind fun _ => .pure _

theorem fetchWith_withIn {op : Op (Except DecodeError Instr)} (hop : Op.Local k op) {s : State} {m : Memory}
    (hm : s.AgreesBelow m) : fetchWith op (s.withIn m) = fetchWith op s := by
  unfold fetchWith
  rw [hop.withIn s m hm]
  cases op s with
  | ok d t => rfl
  | error e t => cases e <;> rfl

theorem fetch_withIn {s : State} {m : Memory} (hm : s.AgreesBelow m) : fetch (s.withIn m) = fetch s := by
  have hphase : (s.withIn m).phase = s.phase := rfl
  unfold fetch
  rw [hphase]
  cases s.phase with
  | lzFlag => exact fetchWith_withIn (k := .still) lookFlags_local hm
  | lzToken => exact fetchWith_withIn (k := .still) lookToken_local hm
  | h8Walk => exact fetchWith_withIn lookPoolBit_local hm
  | lzh8Body => exact fetchWith_withIn (k := .still) (lookSymbol_local _) hm
  | rcBody => exact fetchWith_withIn (k := .still) (lookSymbol_local _) hm
  | idle | dispatch | h8Setup | lzh8Setup | rcBlock | done => rfl

end Fetch

/-- Settles O59: the fetch and the operation it selects look at IN below IN_LEN alone. -/
theorem bytesPastInLenNeverMatter : Obligations.BytesPastInLenNeverMatter := by
  intro s m hhost hm
  rw [step_of_host_nil hhost, step_of_host_nil (s := s.withIn m) hhost, engineTurn, engineTurn, fetch_withIn hm]
  cases fetch s with
  | wait => rfl
  | run i => exact (exec_local i).withIn s m hm
  | error e => rfl
  | fault f => rfl

end Sys2Proof.Machine

namespace Sys2Proof.Machine

/-! ## The invariant, progress and termination -/

/-! ### What pseudocode answers, and when it may stop the machine -/

/-- Where the pseudocode answers, the answer and its state satisfy `Q`; where it stops the machine, IN is not covered by
its capacity or an alphabet is above the source's. An error ends the call and is no matter here. -/
def Op.Meets {α : Type} (op : Op α) (s : State) (Q : α → State → Prop) : Prop :=
  match op s with
  | .ok a t => Q a t
  | .error (.error _) _ => True
  | .error (.fault _) t => ¬ (t.inCovered ∧ alphabetsOk t.cfg)

namespace Op.Meets
variable {α β : Type} {s : State} {P Q : α → State → Prop} {R : β → State → Prop}

theorem pure {a : α} (h : Q a s) : Op.Meets (Pure.pure a) s Q := h

theorem raised (e : ErrCode) : Op.Meets (raised e) s Q := trivial

theorem update {f : State → State} {R : Unit → State → Prop} (h : R () (f s)) : Op.Meets (Machine.update f) s R := h

theorem mono {op : Op α} (h : op.Meets s P) (hPQ : ∀ a t, P a t → Q a t) : op.Meets s Q := by
  unfold Op.Meets at h ⊢
  split at h
  · exact hPQ _ _ h
  · trivial
  · exact h

theorem bind {x : Op α} {f : α → Op β} (hx : x.Meets s P) (hf : ∀ a t, P a t → (f a).Meets t R) :
    (x >>= f).Meets s R := by
  unfold Op.Meets at hx ⊢
  rw [Op.bind_apply]
  cases hop : x s with
  | ok a t =>
    rw [hop] at hx
    exact hf a t hx
  | error e t =>
    rw [hop] at hx
    cases e with
    | error e => trivial
    | fault f => exact hx

theorem get_bind {f : State → Op α} (h : (f s).Meets s Q) : (get >>= f).Meets s Q := h

theorem update_bind {f : State → State} {g : Unit → Op α} (h : (g ()).Meets (f s) Q) :
    (Machine.update f >>= g).Meets s Q := h

theorem ite {c : Prop} [Decidable c] {x y : Op α} (hx : c → x.Meets s Q) (hy : ¬ c → y.Meets s Q) :
    (if c then x else y).Meets s Q := by
  split
  · exact hx ‹_›
  · exact hy ‹_›

end Op.Meets

section Memories
variable {s : State}

/-- MemRead stops the machine only where IN is not covered. -/
theorem memRead_meets (a n : Nat) (s : State) :
    (memRead a n).Meets s fun bs t => t = s ∧ a + n ≤ s.inLen.toNat ∧ bs = s.inBytes a n := by
  unfold Op.Meets memRead
  by_cases hlen : s.inLen.toNat < a + n
  · simp only [if_pos hlen]
  · by_cases hcap : (s.cfg.inCapacity.any fun c => decide (c < a + n)) = true
    · rw [if_neg hlen, if_pos hcap]
      obtain ⟨c, hc, hlt⟩ := Option.any_eq_true .. |>.mp hcap
      rintro ⟨hcovered, -⟩
      have hle := hcovered c hc
      simp only [decide_eq_true_eq] at hlt
      omega
    · rw [if_neg hlen, if_neg hcap]
      exact ⟨rfl, by omega, rfl⟩

theorem takeBytes_meets (n : Nat) (s : State) :
    (takeBytes n).Meets s fun _ t => t = s.setIp (s.ip + n) ∧ s.ip + n ≤ s.inLen.toNat :=
  .get_bind <| (memRead_meets s.ip n s).bind fun _ _ ⟨ht, hin, _⟩ => by
    subst ht
    exact .update_bind (.pure ⟨rfl, hin⟩)

theorem emitByte_meets (b : Byte) (s : State) : (emitByte b).Meets s fun _ t =>
    ∃ mem oc, t = { s with outMem := mem, oc := oc } ∧ oc ≤ s.declared := by
  unfold Op.Meets
  rcases emitByte_cases s b with ⟨hlt, h⟩ | ⟨-, h⟩ <;> rw [h]
  · exact ⟨_, _, rfl, hlt⟩
  · trivial

theorem copyOp_meets (length distance : Nat) (s : State) : (copyOp length distance).Meets s fun _ t =>
    ∃ mem oc, t = { s with outMem := mem, oc := oc } ∧ oc ≤ s.declared := by
  unfold Op.Meets copyOp
  split_ifs with hdist hlen
  · trivial
  · trivial
  · exact ⟨_, _, State.copyBytes_frame length distance s, Nat.not_lt.mp hlen⟩

/-- A value of `n` bytes is below `256 ^ n`. -/
theorem leValue_lt (bs : List Byte) : leValue bs < 256 ^ bs.length := by
  induction bs with
  | nil => exact Nat.one_pos
  | cons b bs ih =>
    have hb := b.isLt
    rw [leValue, List.length_cons, Nat.pow_succ]
    omega

end Memories

/-! ### The active reader -/

/-- A reader that is at least `n` bits further on, over the same bytes and with the same limit. -/
structure BitReader.Ahead (r r' : BitReader) (n : Nat) : Prop where
  lo : r'.lo = r.lo
  hi : r'.hi = r.hi
  limit : r'.limit = r.limit
  pos : r.pos + n ≤ r'.pos

/-- The state with its reader at least `n` bits further on. -/
def State.ReadTo (s : State) (r : BitReader) (n : Nat) (t : State) : Prop :=
  ∃ r', t = s.setReader r' ∧ s.ReaderOk r' ∧ r.Ahead r' n

/-- At a reader that fits IN the pseudocode moves the reader at least `n` bits, and answers a value of `P`. -/
def Op.Reading {α : Type} (n : Nat) (P : α → Prop) (op : Op α) : Prop :=
  ∀ s r, s.br = some r → s.ReaderOk r → op.Meets s fun a t => P a ∧ s.ReadTo r n t

section Reading
variable {α β : Type} {n m : Nat} {P : α → Prop} {Q : β → Prop}

theorem State.readTo_self {s : State} {r : BitReader} (hr : s.br = some r) (hok : s.ReaderOk r) : s.ReadTo r 0 s :=
  ⟨r, (State.setReader_self hr).symm, hok, rfl, rfl, rfl, Nat.le_refl _⟩

theorem Op.Reading.pure {a : α} (h : P a) : Op.Reading 0 P (Pure.pure a : Op α) :=
  fun _ _ hr hok => ⟨h, State.readTo_self hr hok⟩

theorem Op.Reading.raised (e : ErrCode) : Op.Reading n P (raised e : Op α) := fun _ _ _ _ => trivial

theorem Op.Reading.bind {x : Op α} {f : α → Op β} (hx : Op.Reading n P x) (hf : ∀ a, P a → Op.Reading m Q (f a)) :
    Op.Reading (n + m) Q (x >>= f) := fun s r hr hok =>
  (hx s r hr hok).bind fun a t ⟨ha, r', ht, hok', hahead⟩ => by
    subst ht
    have hrest := hf a ha _ r' rfl ((s.sameInput_setReader r').readerOk hok')
    refine hrest.mono fun b u ⟨hb, r'', hu, hok'', hahead'⟩ => ?_
    refine ⟨hb, r'', hu, (s.sameInput_setReader r').symm.readerOk hok'', hahead'.lo.trans hahead.lo,
      hahead'.hi.trans hahead.hi, hahead'.limit.trans hahead.limit, ?_⟩
    have hpos := hahead.pos
    have hpos' := hahead'.pos
    omega

theorem Op.Reading.mono {op : Op α} {P' : α → Prop} (h : Op.Reading n P op) (hm : m ≤ n) (hP : ∀ a, P a → P' a) :
    Op.Reading m P' op := fun s r hr hok =>
  (h s r hr hok).mono fun a _ ⟨ha, r', ht, hok', hlo, hhi, hlimit, hpos⟩ =>
    ⟨hP a ha, r', ht, hok', hlo, hhi, hlimit, by omega⟩

/-- A loaded bit is consumed. -/
theorem State.ReaderOk.consume {s : State} {r : BitReader} (hok : s.ReaderOk r) (hpos : r.pos < r.limit)
    (h0 : r.nbits ≠ 0) : s.ReaderOk { r with nbits := r.nbits - 1 } ∧ r.Ahead { r with nbits := r.nbits - 1 } 1 := by
  obtain ⟨hidx, hcur⟩ := hok.loaded h0
  have hwidth := hok.width
  have hnew : (r.idx - r.lo) * 8 - (r.nbits - 1) = r.pos + 1 := by unfold BitReader.pos; omega
  exact ⟨⟨hok.start, hok.stop, hok.inside, hok.bounded, hnew.trans_le hpos, by dsimp; omega, fun _ => ⟨hidx, hcur⟩⟩,
    rfl, rfl, rfl, hnew.ge⟩

/-- A byte is loaded where none is left; the position stays. -/
theorem State.ReaderOk.refill {s : State} {r : BitReader} (hok : s.ReaderOk r) (h0 : r.nbits = 0)
    (hidx : r.idx < r.hi) :
    s.ReaderOk { r with cur := s.inByte r.idx, idx := r.idx + 1, nbits := 8 } ∧
      BitReader.pos { r with cur := s.inByte r.idx, idx := r.idx + 1, nbits := 8 } = r.pos := by
  have hstart := hok.start
  have hpos : (r.idx + 1 - r.lo) * 8 - 8 = r.pos := by unfold BitReader.pos; omega
  exact ⟨⟨by dsimp; omega, hidx, hok.inside, hok.bounded, hpos.trans_le hok.delivered, Nat.le_refl 8,
    fun _ => ⟨by dsimp; omega, rfl⟩⟩, hpos⟩

theorem reader_meets {s : State} {r : BitReader} (hr : s.br = some r) : reader.Meets s fun r' t => r' = r ∧ t = s := by
  unfold Op.Meets
  rw [reader_of_some hr]
  exact ⟨rfl, rfl⟩

theorem refill_meets (s : State) (r : BitReader) : (Machine.refill r).Meets s fun r' t =>
    t = s ∧ r.idx < r.hi ∧ r' = { r with cur := s.inByte r.idx, idx := r.idx + 1, nbits := 8 } :=
  .ite (fun _ => .raised _) fun hidx => (memRead_meets r.idx 1 s).bind fun bs t ⟨ht, _, hbs⟩ => by
    subst ht hbs
    exact ⟨rfl, Nat.not_le.mp hidx, rfl⟩

/-- NextBit moves the reader one bit (rule R71). -/
theorem nextBit_reading : Op.Reading 1 (fun _ => True) nextBit := by
  intro s r hr hok
  refine (reader_meets hr).bind fun r₁ t ⟨hr₁, ht⟩ => ?_
  subst hr₁ ht
  refine .ite (fun _ => .raised _) fun hlimit => ?_
  have hpos := Nat.not_le.mp hlimit
  have deliver {r' : BitReader} (hok' : t.ReaderOk r') (h0 : r'.nbits ≠ 0) (hlo : r'.lo = r₁.lo) (hhi : r'.hi = r₁.hi)
      (hlim : r'.limit = r₁.limit) (hat : r'.pos = r₁.pos) :
      t.ReadTo r₁ 1 (t.setReader { r' with nbits := r'.nbits - 1 }) := by
    obtain ⟨hok'', -, -, -, hahead⟩ := hok'.consume (by rw [hat, hlim]; exact hpos) h0
    exact ⟨_, rfl, hok'', hlo, hhi, hlim, by rw [← hat]; exact hahead⟩
  by_cases h0 : r₁.nbits = 0
  · rw [if_pos h0]
    refine (refill_meets t r₁).bind fun r' u ⟨hu, hidx, hr'⟩ => ?_
    subst hu hr'
    obtain ⟨hok', hat⟩ := hok.refill h0 hidx
    exact ⟨trivial, deliver hok' (by simp) rfl rfl rfl hat⟩
  · rw [if_neg h0]
    exact ⟨trivial, deliver hok h0 rfl rfl rfl rfl⟩

theorem readBitsFrom_reading (v k : Nat) : Op.Reading 0 (fun _ => True) (readBitsFrom v k) := by
  induction k generalizing v with
  | zero => exact .pure trivial
  | succ k ih => exact (nextBit_reading.bind fun b _ => ih _).mono (Nat.zero_le _) fun _ h => h

theorem readBits_reading (k : Nat) : Op.Reading 0 (fun _ => True) (readBits k) := readBitsFrom_reading 0 k

/-- Every leaf of an arena holds a symbol of an alphabet of `size` symbols. -/
def SymsBelow (size : Nat) (nodes : List Node) : Prop := ∀ n ∈ nodes, ∀ v ∈ n.sym, v < size

/-- The symbol of a node that a walk can reach is one of the arena's. -/
theorem sym_getD_lt {nodes : List Node} {size c v : Nat} (h : SymsBelow size nodes)
    (hv : (nodes.getD c {}).sym = some v) : v < size := by
  rcases Nat.lt_or_ge c nodes.length with hlt | hge
  · rw [List.getD_eq_getElem _ _ hlt] at hv
    exact h _ (List.getElem_mem hlt) v hv
  · rw [List.getD_eq_default _ _ hge] at hv
    exact nomatch hv

/-- A walk takes a bit or more, and ends at a symbol of the alphabet (rule R87). -/
theorem walk_reading {nodes : List Node} {size : Nat} (h : SymsBelow size nodes) (fuel c : Nat) :
    Op.Reading 1 (· < size) (walk nodes fuel c) := by
  induction fuel generalizing c with
  | zero => exact .raised _
  | succ fuel ih =>
    refine nextBit_reading.bind (m := 0) fun b _ => ?_
    split
    · exact .raised _
    · split
      · next hv => exact .pure (sym_getD_lt h hv)
      · exact (ih _).mono (Nat.zero_le _) fun _ hv => hv

theorem decodeSymbol_meets {s : State} {r : BitReader} {t : TableId} {size : Nat} (hr : s.br = some r)
    (hok : s.ReaderOk r) (h : (s.table t).symbolsBelow size) :
    (decodeSymbol t).Meets s fun v u => v < size ∧ s.ReadTo r 1 u :=
  .get_bind <| (reader_meets hr).bind fun r' u ⟨hr', hu⟩ => by
    subst hr' hu
    exact walk_reading h _ 0 u r' hr hok

theorem lzh8DispOp_reading (displen : Nat) : Op.Reading 0 (fun _ => True) (lzh8DispOp displen) := by
  unfold lzh8DispOp
  split
  · exact .pure trivial
  · exact (readBits_reading _).bind fun _ _ => .pure trivial

theorem rcLenClassOp_reading {c : Nat} (h : c < 29) : Op.Reading 0 (fun _ => True) (rcLenClassOp c) := by
  unfold rcLenClassOp
  rw [List.getElem?_eq_getElem (show c < lengthClasses.length from h)]
  exact (readBits_reading _).bind fun _ _ => .pure trivial

/-- A distance class above the table is above the source's alphabet (rules R63, R123). -/
theorem rcDistClassOp_meets {s : State} {r : BitReader} {dc : Nat} (hr : s.br = some r) (hok : s.ReaderOk r)
    (h : dc < s.cfg.rcS2) : (rcDistClassOp dc).Meets s fun _ t => s.ReadTo r 0 t := by
  unfold rcDistClassOp
  rcases Nat.lt_or_ge dc 30 with hlt | hge
  · rw [List.getElem?_eq_getElem (show dc < distanceClasses.length from hlt)]
    exact (((readBits_reading _).bind fun _ _ => .pure trivial) s r hr hok).mono (P := fun _ t => True ∧ s.ReadTo r 0 t)
      fun _ _ h => h.2
  · rw [List.getElem?_eq_none (show distanceClasses.length ≤ dc from hge)]
    rintro ⟨-, -, -, hsize⟩
    omega

end Reading

/-! ### The tables a description builds hold symbols of their alphabet (rules R81, R84) -/

section Trees
variable {size : Nat} {nodes nodes' : List Node}

theorem assignCodes_sym_lt {lens next : List Nat} {sym : Nat} {codes : List (Nat × Nat × Nat)}
    (h : assignCodes lens sym next = some codes) : ∀ x ∈ codes, x.1 < sym + lens.length := by
  induction lens generalizing sym next codes with
  | nil =>
    cases h
    exact fun _ hx => nomatch hx
  | cons l lens ih =>
    intro x hx
    rw [List.length_cons]
    by_cases hl : l = 0
    · simp only [assignCodes, if_pos hl] at h
      have hlt := ih h x hx
      omega
    · simp only [assignCodes, if_neg hl] at h
      split_ifs at h
      obtain ⟨rest, hrest, rfl⟩ := Option.map_eq_some_iff.mp h
      rcases List.mem_cons.mp hx with rfl | hx
      · dsimp only
        omega
      · have hlt := ih hrest x hx
        omega

/-- A child hung below a node keeps the arena within the alphabet. -/
theorem SymsBelow.withChild {k : Nat} {b : Bool} {sym : Option Nat} (h : SymsBelow size nodes)
    (hsym : ∀ v ∈ sym, v < size) : SymsBelow size (Machine.withChild nodes k b sym) := by
  intro n hn v hv
  rcases List.mem_append.mp hn with hn | hn
  · rcases List.mem_or_eq_of_mem_set hn with hn | rfl
    · exact h n hn v hv
    · refine sym_getD_lt (c := k) h ?_
      cases b <;> exact hv
  · rw [List.mem_singleton.mp hn] at hv
    exact hsym v hv

theorem SymsBelow.insertCode {cap : Option Nat} {sym code i k : Nat} (h : SymsBelow size nodes) (hsym : sym < size)
    (hins : Machine.insertCode cap sym code i k nodes = some nodes') : SymsBelow size nodes' := by
  induction i generalizing k nodes with
  | zero =>
    cases hins
    exact h
  | succ i ih =>
    cases hchild : (nodes.getD k {}).child (code.testBit i) with
    | some c => exact ih h (insertCode_child_some hchild hins).2.2
    | none =>
      rw [insertCode_child_none hchild] at hins
      split_ifs at hins
      · exact ih (h.withChild fun v hv => by cases hv; exact hsym) hins
      · exact ih (h.withChild fun v hv => by cases hv) hins

theorem SymsBelow.insertCodes {cap : Option Nat} {codes : List (Nat × Nat × Nat)} (h : SymsBelow size nodes)
    (hsym : ∀ x ∈ codes, x.1 < size) (hins : Machine.insertCodes cap codes nodes = some nodes') :
    SymsBelow size nodes' := by
  induction codes generalizing nodes with
  | nil =>
    cases hins
    exact h
  | cons x codes ih =>
    obtain ⟨hx, hcodes⟩ := List.forall_mem_cons.mp hsym
    rw [insertCodes_cons] at hins
    obtain ⟨mid, hmid, hrest⟩ := Option.bind_eq_some_iff.mp hins
    exact ih (h.insertCode hx hmid) hcodes hrest

/-- The tree of a table holds only symbols that have a length. -/
theorem symsBelow_buildTree {cfg : Config} {lens : List Nat} (h : buildTree cfg lens = some nodes) :
    SymsBelow lens.length nodes := by
  obtain ⟨codes, hcodes, h⟩ := Option.bind_eq_some_iff.mp h
  obtain ⟨root, hroot, hins⟩ := Option.bind_eq_some_iff.mp h
  have hempty : SymsBelow lens.length root := by
    unfold addNode at hroot
    split_ifs at hroot
    cases hroot
    intro n hn v hv
    rw [List.mem_singleton.mp hn] at hv
    exact nomatch hv
  have hsym := assignCodes_sym_lt hcodes
  rw [Nat.zero_add] at hsym
  exact hempty.insertCodes hsym hins

end Trees

end Sys2Proof.Machine

namespace Sys2Proof.Machine

/-! ### Loading a table, whatever its description -/

/-- Pseudocode that writes the reader alone. -/
def Op.MovesReader {α : Type} (P : α → Prop) (op : Op α) : Prop :=
  ∀ s, op.Meets s fun a t => P a ∧ ∃ br, t = { s with br := br }

section MovesReader
variable {α β : Type} {P : α → Prop} {Q : β → Prop}

theorem Op.MovesReader.pure {a : α} (h : P a) : Op.MovesReader P (Pure.pure a : Op α) := fun _ => ⟨h, _, rfl⟩

theorem Op.MovesReader.raised (e : ErrCode) : Op.MovesReader P (raised e : Op α) := fun _ => trivial

theorem Op.MovesReader.bind {x : Op α} {f : α → Op β} (hx : Op.MovesReader P x)
    (hf : ∀ a, P a → Op.MovesReader Q (f a)) : Op.MovesReader Q (x >>= f) := fun s =>
  (hx s).bind fun a t ⟨ha, br, ht⟩ => by
    subst ht
    exact (hf a ha _).mono fun b u ⟨hb, br', hu⟩ => ⟨hb, br', hu⟩

theorem Op.MovesReader.ite {c : Prop} [Decidable c] {x y : Op α} (hx : Op.MovesReader P x) (hy : Op.MovesReader P y) :
    Op.MovesReader P (if c then x else y) := by
  split
  · exact hx
  · exact hy

theorem memRead_movesReader (a n : Nat) : Op.MovesReader (fun _ => True) (memRead a n) := fun s =>
  (memRead_meets a n s).mono fun _ _ ⟨ht, _⟩ => ⟨trivial, s.br, ht⟩

theorem reader_movesReader : Op.MovesReader (fun _ => True) reader := by
  intro s
  unfold Op.Meets
  rcases reader_cases s with ⟨r, hr, hop⟩ | ⟨hr, hop⟩ <;> rw [hop]
  · exact ⟨trivial, s.br, rfl⟩
  · trivial

theorem setReader_movesReader (r : BitReader) : Op.MovesReader (fun _ => True) (update fun s => s.setReader r) :=
  fun _ => ⟨trivial, some r, rfl⟩

theorem nextBit_movesReader : Op.MovesReader (fun _ => True) nextBit := by
  have deliver (r : BitReader) : Op.MovesReader (fun _ => True) (do
      update fun s => s.setReader { r with nbits := r.nbits - 1 }
      return r.cur.getLsbD (r.nbits - 1)) := (setReader_movesReader _).bind fun _ _ => .pure trivial
  have refilled (r : BitReader) : Op.MovesReader (fun _ => True) (refill r) :=
    .ite (.raised _) ((memRead_movesReader _ _).bind fun _ _ => .pure trivial)
  exact reader_movesReader.bind fun r _ => .ite (.raised _)
    (.ite ((refilled r).bind fun r' _ => deliver r')
      ((Op.MovesReader.pure (P := fun _ => True) trivial).bind fun r' _ => deliver r'))

theorem readBitsFrom_movesReader (v n : Nat) : Op.MovesReader (fun _ => True) (readBitsFrom v n) := by
  induction n generalizing v with
  | zero => exact .pure trivial
  | succ n ih => exact nextBit_movesReader.bind fun b _ => ih _

theorem readBits_movesReader (n : Nat) : Op.MovesReader (fun _ => True) (readBits n) := readBitsFrom_movesReader 0 n

theorem readLens_movesReader (w n : Nat) : Op.MovesReader (fun lens => lens.length = n) (readLens w n) := by
  induction n with
  | zero => exact .pure rfl
  | succ n ih => exact (readBits_movesReader w).bind fun _ _ => ih.bind fun lens hlens => .pure (by simp [hlens])

theorem checkZeroBits_movesReader (lo q n : Nat) : Op.MovesReader (fun _ => True) (checkZeroBits lo q n) := by
  induction n generalizing q with
  | zero => exact .pure trivial
  | succ n ih => exact (memRead_movesReader _ 1).bind fun _ _ => .ite (.raised _) (ih _)

theorem brCheckpadOp_movesReader (endBit : Nat) : Op.MovesReader (fun _ => True) (brCheckpadOp endBit) :=
  reader_movesReader.bind fun r _ => (checkZeroBits_movesReader r.lo r.pos _).bind fun _ _ => setReader_movesReader _

end MovesReader

section Loading
variable {s u : State} {t : TableId} {size i : Nat} {P : Table → Prop}

/-- The state in which the reader and one table have been written, the table with a content of `P`. -/
def State.WithTable (s : State) (t : TableId) (P : Table → Prop) (u : State) : Prop :=
  ∃ br x, u = State.setTable { s with br := br } t x ∧ P x

/-- The table has a length for every symbol of its alphabet. -/
def Table.Sized (size : Nat) (x : Table) : Prop := x.size = size ∧ x.len.length = size

theorem State.WithTable.table (h : s.WithTable t P u) : P (u.table t) := by
  obtain ⟨br, x, rfl, hx⟩ := h
  cases t <;> exact hx

theorem State.WithTable.setReader (h : s.WithTable t P u) (br : Option BitReader) :
    s.WithTable t P { u with br := br } := by
  obtain ⟨br', x, rfl, hx⟩ := h
  cases t <;> exact ⟨br, x, rfl, hx⟩

theorem State.WithTable.setTable {Q : Table → Prop} (h : s.WithTable t P u) {x : Table} (hx : Q x) :
    s.WithTable t Q (u.setTable t x) := by
  obtain ⟨br, x', rfl, -⟩ := h
  cases t <;> exact ⟨br, x, rfl, hx⟩

/-- Pseudocode that moves the reader stays within the states whose table is written. -/
theorem Op.MovesReader.withTable {α : Type} {A : α → Prop} {op : Op α} (hop : Op.MovesReader A op)
    (h : s.WithTable t P u) : op.Meets u fun a v => A a ∧ s.WithTable t P v :=
  (hop u).mono fun _ _ ⟨ha, br, hv⟩ => ⟨ha, hv ▸ h.setReader br⟩

/-- New lengths that do not pass the last symbol leave as many as there are symbols. -/
theorem State.WithTable.setLens {new : List Nat} (h : s.WithTable t (Table.Sized size) u)
    (hfits : i + new.length ≤ size) : s.WithTable t (Table.Sized size) (u.setLens t i new) := by
  obtain ⟨hsize, hlen⟩ := h.table
  refine h.setTable ⟨hsize, ?_⟩
  simp only [overwrite, List.length_append, List.length_take, List.length_drop]
  omega

theorem runEqualOp_meets (h : s.WithTable t (Table.Sized size) u) (i : Nat) :
    (runEqualOp t i).Meets u fun _ v => s.WithTable t (Table.Sized size) v := by
  have hsize := h.table.1
  refine .get_bind <| ((readBits_movesReader _).withTable h).bind fun n v ⟨_, hv⟩ => ?_
  refine .ite (fun _ => .raised _) fun hpast => ((readBits_movesReader _).withTable hv).bind fun l w ⟨_, hw⟩ => ?_
  exact .update_bind (.pure (hw.setLens (by rw [List.length_replicate]; omega)))

theorem runSetOp_meets (h : s.WithTable t (Table.Sized size) u) (i : Nat) :
    (runSetOp t i).Meets u fun _ v => s.WithTable t (Table.Sized size) v := by
  have hsize := h.table.1
  refine .get_bind <| ((readBits_movesReader _).withTable h).bind fun n v ⟨_, hv⟩ => ?_
  refine .ite (fun _ => .raised _) fun hpast => ((readLens_movesReader _ _).withTable hv).bind fun ls w ⟨hls, hw⟩ => ?_
  exact .update_bind (.pure (hw.setLens (by omega)))

theorem runsOp_meets (h : s.WithTable t (Table.Sized size) u) (fuel i : Nat) :
    (runsOp t fuel i).Meets u fun _ v => s.WithTable t (Table.Sized size) v := by
  induction fuel generalizing u i with
  | zero => exact .pure h
  | succ fuel ih =>
    refine .get_bind (.ite (fun _ => ?_) fun _ => .pure h)
    refine ((readBits_movesReader 1).withTable h).bind fun tag v ⟨_, hv⟩ => ?_
    exact .ite (fun _ => (runEqualOp_meets hv i).bind fun i' w hw => ih hw i')
      fun _ => (runSetOp_meets hv i).bind fun i' w hw => ih hw i'

/-- A table that loads holds symbols of its alphabet alone (rules R75, R81). -/
theorem htLoadOp_meets (s : State) (t : TableId) (size : Nat) :
    (htLoadOp t size).Meets s fun _ u => s.WithTable t (·.symbolsBelow size) u := by
  have hstart : s.WithTable t (Table.Sized size)
      (s.setTable t { size := size, len := List.replicate size 0, node := [] }) :=
    ⟨s.br, _, rfl, rfl, List.length_replicate⟩
  refine .update_bind ((runsOp_meets hstart size 0).bind fun _ u hu => ?_)
  unfold Op.Meets htBuildOp
  cases htree : buildTree u.cfg (u.table t).len with
  | none => trivial
  | some nodes =>
    have hsyms := symsBelow_buildTree htree
    rw [hu.table.2] at hsyms
    exact hu.setTable hsyms

theorem lzh8TableOp_meets (s : State) (t : TableId) (size a : Nat) : (lzh8TableOp t size a).Meets s fun hi u =>
    hi ≤ s.inLen.toNat ∧ s.WithTable t (·.symbolsBelow size) u := by
  refine ((memRead_meets a 2 s).bind (R := fun _ u => u = s) fun _ _ ⟨ht, _⟩ => .pure ht).bind fun w u hu => ?_
  subst hu
  refine .get_bind (.ite (fun _ => .raised _) fun hin => .update_bind ((htLoadOp_meets _ t size).bind fun _ v hv => ?_))
  refine .pure ⟨Nat.not_lt.mp hin, ?_⟩
  obtain ⟨br, x, rfl, hx⟩ := hv
  exact ⟨br, x, rfl, hx⟩

theorem rcTableOp_meets (s : State) (t : TableId) (size p : Nat) : (rcTableOp t size p).Meets s fun e u =>
    e ≤ s.rc.n ∧ s.WithTable t (·.symbolsBelow size) u := by
  refine .get_bind (.ite (fun _ => .raised _) fun _ => .update_bind ?_)
  refine (readBits_movesReader 16 _).bind fun tsz u ⟨_, br, hu⟩ => ?_
  subst hu
  refine .ite (fun _ => .raised _) fun hin => .update_bind ((htLoadOp_meets _ t size).bind fun _ v hv => ?_)
  refine ((brCheckpadOp_movesReader _).withTable hv).bind fun _ w ⟨_, hw⟩ => .pure ⟨Nat.not_lt.mp hin, ?_⟩
  obtain ⟨br', x, rfl, hx⟩ := hw
  exact ⟨br', x, rfl, hx⟩

end Loading

end Sys2Proof.Machine

namespace Sys2Proof.Machine

/-! ### The invariant and the bound, phase by phase -/

/-- The bits the active reader has left under its limit. -/
def State.bitsLeft (s : State) : Nat :=
  match s.br with
  | some r => r.limit - r.pos
  | none => 0

/-- A bound on the steps to the end of the call: each step of a phase takes a bit of the input or more (rules R150,
R151). -/
def State.measure (s : State) : Nat :=
  match s.phase with
  | .idle | .done => 0
  | .dispatch => 8 * s.inLen.toNat + 4
  | .h8Setup | .lzh8Setup => 8 * s.inLen.toNat + 2
  | .lzFlag | .lzToken | .rcBlock => 8 * (s.inLen.toNat - s.ip) + 1
  | .h8Walk => 8 * (s.inLen.toNat - s.h8.pidx) + s.h8.pbits + 1
  | .lzh8Body => s.bitsLeft + 1
  | .rcBody => s.bitsLeft + 8 * (s.inLen.toNat - s.rc.next) + 1

/-- The phase's registers are as its rules say, and the call has ended or come closer to its end. -/
def State.Good (m : Nat) (s : State) : Prop := s.PhaseOk ∧ (s.phase = .done ∨ s.phase ≠ .idle ∧ s.measure < m)

section Good
variable {s : State} {m : Nat}

/-- An error ends the call, whatever state it is raised in (rule R136). -/
theorem State.good_raise (s : State) (e : ErrCode) : (s.raise e).Good m := by
  have hcode : 1 ≤ e.code.toNat ∧ e.code.toNat ≤ 5 := by cases e <;> decide
  exact ⟨.inl ⟨rfl, rfl, hcode.1, hcode.2, rfl⟩, .inl rfl⟩

/-- A call that completes with its output whole (rule R132). -/
theorem State.good_complete (hlen : s.outLen.toNat = s.declared) (hoc : s.oc = s.declared) : s.complete.Good m :=
  ⟨.inr ⟨⟨rfl, rfl, rfl, rfl⟩, hoc, hlen⟩, .inl rfl⟩

theorem State.good_lzFlag (hphase : s.phase = .lzFlag) (hrun : s.status.running) (hok : s.LzOk) (hcount : s.fcnt = 0)
    (hm : 8 * (s.inLen.toNat - s.ip) + 1 < m) : s.Good m := by
  simp only [State.Good, State.PhaseOk, State.measure, hphase]
  exact ⟨⟨hrun, hok, hcount⟩, .inr ⟨nofun, hm⟩⟩

theorem State.good_lzToken (hphase : s.phase = .lzToken) (hrun : s.status.running) (hok : s.LzOk)
    (hcount : 1 ≤ s.fcnt) (hm : 8 * (s.inLen.toNat - s.ip) + 1 < m) : s.Good m := by
  simp only [State.Good, State.PhaseOk, State.measure, hphase]
  exact ⟨⟨hrun, hok, hcount⟩, .inr ⟨nofun, hm⟩⟩

theorem State.good_h8Setup (hphase : s.phase = .h8Setup) (hrun : s.status.running) (hok : s.CallOk) (hoc : s.oc = 0)
    (hkind : s.fmt = Format.huf8.code) (hm : 8 * s.inLen.toNat + 2 < m) : s.Good m := by
  simp only [State.Good, State.PhaseOk, State.measure, hphase]
  exact ⟨⟨hrun, hok, hoc, hkind⟩, .inr ⟨nofun, hm⟩⟩

theorem State.good_h8Walk (hphase : s.phase = .h8Walk) (hrun : s.status.running) (hok : s.Huf8Ok)
    (hm : 8 * (s.inLen.toNat - s.h8.pidx) + s.h8.pbits + 1 < m) : s.Good m := by
  simp only [State.Good, State.PhaseOk, State.measure, hphase]
  exact ⟨⟨hrun, hok⟩, .inr ⟨nofun, hm⟩⟩

theorem State.good_lzh8Setup (hphase : s.phase = .lzh8Setup) (hrun : s.status.running) (hok : s.CallOk)
    (hoc : s.oc = 0) (hkind : s.fmt = Format.lzh8.code) (hm : 8 * s.inLen.toNat + 2 < m) : s.Good m := by
  simp only [State.Good, State.PhaseOk, State.measure, hphase]
  exact ⟨⟨hrun, hok, hoc, hkind⟩, .inr ⟨nofun, hm⟩⟩

theorem State.good_lzh8Body (hphase : s.phase = .lzh8Body) (hrun : s.status.running) (hok : s.Lzh8Ok)
    (hm : s.bitsLeft + 1 < m) : s.Good m := by
  simp only [State.Good, State.PhaseOk, State.measure, hphase]
  exact ⟨⟨hrun, hok⟩, .inr ⟨nofun, hm⟩⟩

theorem State.good_rcBlock (hphase : s.phase = .rcBlock) (hrun : s.status.running) (hok : s.RcBlockOk)
    (hm : 8 * (s.inLen.toNat - s.ip) + 1 < m) : s.Good m := by
  simp only [State.Good, State.PhaseOk, State.measure, hphase]
  exact ⟨⟨hrun, hok⟩, .inr ⟨nofun, hm⟩⟩

theorem State.good_rcBody (hphase : s.phase = .rcBody) (hrun : s.status.running) (hok : s.RcBodyOk)
    (hm : s.bitsLeft + 8 * (s.inLen.toNat - s.rc.next) + 1 < m) : s.Good m := by
  simp only [State.Good, State.PhaseOk, State.measure, hphase]
  exact ⟨⟨hrun, hok⟩, .inr ⟨nofun, hm⟩⟩

end Good

/-! ### Turns of the engine -/

/-- The turn answers a state of the invariant that has ended the call or come closer to its end, or the machine stops
where IN is not covered by its capacity or an alphabet is above the source's. -/
def State.Advances (s : State) : Host.Outcome State Fault Refusal → Prop
  | .next t => t.Good s.measure
  | .fault _ => ¬ (s.inCovered ∧ alphabetsOk s.cfg)
  | .refused _ => False

section Advances
variable {s : State} {k : Reach}

theorem State.SameIo.sourceLimits {t : State} (h : s.SameIo t) :
    t.inCovered ∧ alphabetsOk t.cfg ↔ s.inCovered ∧ alphabetsOk s.cfg := by
  rw [State.inCovered, h.cfg, h.inLen]

theorem State.advances_runOp {op : Op Unit} (hlocal : Op.Local k op) (h : op.Meets s fun _ t => t.Good s.measure) :
    s.Advances (runOp op s) := by
  have hkeep := hlocal.keeps s
  unfold Op.after at hkeep
  unfold Op.Meets at h
  unfold runOp
  cases hop : op s with
  | ok a t =>
    rw [hop] at h
    exact h
  | error e t =>
    rw [hop] at h hkeep
    cases e with
    | error e => exact t.good_raise e
    | fault f => exact fun hlimits => h ((Reach.sameIo hkeep).sourceLimits.mpr hlimits)

/-- What the fetch makes of a look at the input. -/
theorem State.advances_of_look {look : Op (Except DecodeError Instr)} (hf : fetch s = fetchWith look s)
    (hlocal : Op.Local k look) (h : look.Meets s fun d _ => (∃ i, d = .ok i ∧ s.Advances (exec i s)) ∨
      d = .error .needsBytes ∨ (∃ e, d = .error e) ∧ ¬ (s.inCovered ∧ alphabetsOk s.cfg)) :
    s.Advances (engineTurn s) := by
  have hkeep := hlocal.keeps s
  unfold Op.after at hkeep
  unfold Op.Meets at h
  rw [engineTurn, hf, fetchWith]
  cases hop : look s with
  | ok d t =>
    rw [hop] at h
    rcases h with ⟨i, rfl, hi⟩ | rfl | ⟨⟨e, rfl⟩, hlimits⟩
    · exact hi
    · exact s.good_raise _
    · cases e with
      | needsBytes => exact s.good_raise _
      | tooWide | noCommand | plainHint | selectsBackReference => exact hlimits
  | error e t =>
    rw [hop] at h hkeep
    cases e with
    | error e => exact s.good_raise e
    | fault f => exact fun hlimits => h ((Reach.sameIo hkeep).sourceLimits.mpr hlimits)

end Advances

/-! ### LZ10, LZ11 and N64LZ -/

/-- A value of `n` bytes is below `256 ^ n`. -/
theorem beValue_lt (bs : List Byte) : beValue bs < 256 ^ bs.length := by
  have hfrom (v : Nat) : bs.foldl (fun v b => v * 256 + b.toNat) v < (v + 1) * 256 ^ bs.length := by
    induction bs generalizing v with
    | nil => simp
    | cons b bs ih =>
      have hb := b.isLt
      rw [List.foldl_cons, List.length_cons, Nat.pow_succ']
      calc _ < (v * 256 + b.toNat + 1) * 256 ^ bs.length := ih _
        _ ≤ (v + 1) * 256 * 256 ^ bs.length := Nat.mul_le_mul_right _ (by omega)
        _ = (v + 1) * (256 * 256 ^ bs.length) := Nat.mul_assoc ..
  simpa [beValue] using hfrom 0

theorem be16_meets (a : Nat) (s : State) : (be16 a).Meets s fun v _ => v < 2 ^ 16 :=
  (memRead_meets a 2 s).bind fun bs _ ⟨_, _, hbs⟩ => .pure (by
    have hlt := beValue_lt bs
    rwa [show bs.length = 2 by rw [hbs, State.inBytes_length]] at hlt)

section Window
variable {s : State} {m : Nat}

/-- LZ_NEXT behind a token (rule R99). -/
theorem State.good_lzNext (hrun : s.status.running) (hcall : s.CallOk) (hcount : s.fcnt ≤ 8)
    (hinput : s.ip ≤ s.inLen.toNat)
    (hkind : s.fmt = Format.lz10.code ∨ s.fmt = Format.lz11.code ∨ s.fmt = Format.n64lz.code)
    (hm : 8 * (s.inLen.toNat - s.ip) + 1 < m) : s.lzNext.Good m := by
  have hcursor := hcall.cursor
  unfold State.lzNext
  dsimp only
  split_ifs with hend hlast
  · exact State.good_complete hcall.length hend
  · have hopen : s.oc ≠ s.declared := hend
    exact State.good_lzFlag rfl hrun
      ⟨⟨hcall.length, hcursor, hcall.format⟩, by dsimp; omega, (Nat.sub_le _ _).trans hcount, hkind, hinput⟩ hlast hm
  · have hopen : s.oc ≠ s.declared := hend
    exact State.good_lzToken rfl hrun
      ⟨⟨hcall.length, hcursor, hcall.format⟩, by dsimp; omega, (Nat.sub_le _ _).trans hcount, hkind, hinput⟩
      (Nat.one_le_iff_ne_zero.mpr hlast) hm

/-- A token: its bytes are taken, OUT is written up to the declared length, and LZ_NEXT follows. -/
theorem lzToken_meets (hrun : s.status.running) (hok : s.LzOk) {n : Nat} (hn : 1 ≤ n) {x : Op Unit}
    (hx : ∀ u : State, x.Meets u fun _ t => ∃ mem oc, t = { u with outMem := mem, oc := oc } ∧ oc ≤ u.declared) :
    (takeBytes n >>= fun _ => x >>= fun _ => update State.lzNext).Meets s fun _ t =>
      t.Good (8 * (s.inLen.toNat - s.ip) + 1) := by
  refine (takeBytes_meets n s).bind fun _ u ⟨hu, hin⟩ => (hx u).bind fun _ v ⟨mem, oc, hv, hoc⟩ => .update ?_
  subst hu hv
  exact State.good_lzNext hrun ⟨hok.length, hoc, hok.format⟩ hok.count hin hok.kind (by simp only [State.setIp]; omega)

theorem State.measure_lzToken (h : s.phase = .lzToken) : s.measure = 8 * (s.inLen.toNat - s.ip) + 1 := by
  simp only [State.measure, h]

theorem State.measure_lzFlag (h : s.phase = .lzFlag) : s.measure = 8 * (s.inLen.toNat - s.ip) + 1 := by
  simp only [State.measure, h]

theorem lzRef_advances (hphase : s.phase = .lzToken) (hrun : s.status.running) (hok : s.LzOk) {n : Nat} (hn : 1 ≤ n)
    (length distance : Nat) : s.Advances (runOp (lzRefOp n length distance) s) :=
  State.advances_runOp (lzRefOp_local n length distance)
    (by rw [State.measure_lzToken hphase]; exact lzToken_meets hrun hok hn (copyOp_meets length distance))

theorem lzLit_advances (hphase : s.phase = .lzToken) (hrun : s.status.running) (hok : s.LzOk) (b : Byte) :
    s.Advances (exec (.lzLit b) s) :=
  State.advances_runOp ((takeBytes_local 1).bind fun _ => (emitByte_local b).bind fun _ => lzNext_local)
    (by rw [State.measure_lzToken hphase]; exact lzToken_meets hrun hok (Nat.le_refl 1) (emitByte_meets b))

theorem advances_lzFlag (hphase : s.phase = .lzFlag) (hrun : s.status.running) (hok : s.LzOk) :
    s.Advances (engineTurn s) := by
  refine State.advances_of_look (k := .still) (fetch_lzFlag hphase) lookFlags_local ?_
  refine .get_bind <| (memRead_meets s.ip 1 s).bind fun bs t ⟨_, _, hbs⟩ => .pure (.inl ?_)
  have hbyte : beValue bs = (s.inByte s.ip).toNat := hbs ▸ beValue_singleton _
  refine ⟨_, hbyte ▸ decode_lzFlag8_toNat _, ?_⟩
  refine State.advances_runOp ((takeBytes_local 1).bind fun _ => .inside) ?_
  refine (takeBytes_meets 1 s).bind fun _ u ⟨hu, hin⟩ => .update ?_
  subst hu
  rw [State.measure_lzFlag hphase]
  exact State.good_lzToken rfl hrun
    ⟨⟨hok.length, hok.cursor, hok.format⟩, hok.open_, Nat.le_refl 8, hok.kind, hin⟩ (show 1 ≤ 8 by decide)
    (by simp only [State.setIp, State.setFlags, State.setPhase]; omega)

theorem lookToken_meets (hphase : s.phase = .lzToken) (hrun : s.status.running) (hok : s.LzOk) :
    lookToken.Meets s fun d _ => (∃ i, d = .ok i ∧ s.Advances (exec i s)) ∨
      d = .error .needsBytes ∨ (∃ e, d = .error e) ∧ ¬ (s.inCovered ∧ alphabetsOk s.cfg) := by
  refine .get_bind (.ite (fun _ => ?literal) fun _ => .ite (fun _ => ?lz10) fun _ => ?lz11)
  case literal =>
    refine .get_bind <| (memRead_meets s.ip 1 s).bind fun bs t _ => .pure ?_
    cases bs with
    | nil => exact .inr (.inl rfl)
    | cons b bs => exact .inl ⟨_, rfl, lzLit_advances hphase hrun hok b⟩
  case lz10 =>
    exact .get_bind <| (be16_meets s.ip s).bind fun v t hv =>
      .pure (.inl ⟨_, decode_lz10Tok16 hv, lzRef_advances hphase hrun hok (by decide) _ _⟩)
  case lz11 =>
    refine .get_bind <| (be16_meets s.ip s).bind fun v t hv => (memRead_meets _ _ t).bind fun rest u _ => .pure ?_
    rw [decode_lz11Info16 hv]
    unfold decodeLz11
    split_ifs
    · cases rest with
      | nil => exact .inr (.inl rfl)
      | cons b rest => exact .inl ⟨_, rfl, lzRef_advances hphase hrun hok (by decide) _ _⟩
    · match rest with
      | [] | [_] => exact .inr (.inl rfl)
      | _ :: _ :: _ => exact .inl ⟨_, rfl, lzRef_advances hphase hrun hok (by decide) _ _⟩
    · exact .inl ⟨_, rfl, lzRef_advances hphase hrun hok (by decide) _ _⟩

theorem advances_lzToken (hphase : s.phase = .lzToken) (hrun : s.status.running) (hok : s.LzOk) :
    s.Advances (engineTurn s) :=
  State.advances_of_look (k := .still) (fetch_lzToken hphase) lookToken_local (lookToken_meets hphase hrun hok)

end Window

end Sys2Proof.Machine

namespace Sys2Proof.Machine

/-! ### Huf8 -/

section Huf8
variable {s : State}

/-- The pool has delivered a bit: it holds fewer, counting those of the words still to load (rule R103). -/
structure State.PoolStepped (s : State) (h : Huf8Regs) : Prop where
  sc : h.sc = s.h8.sc
  tsize : h.tsize = s.h8.tsize
  cur : h.cur = s.h8.cur
  word : h.pbits ≤ 32
  low : 8 ≤ h.pidx
  inside : h.pbits = 0 ∨ h.pidx ≤ s.inLen.toNat
  fewer : 8 * (s.inLen.toNat - h.pidx) + h.pbits < 8 * (s.inLen.toNat - s.h8.pidx) + s.h8.pbits

theorem poolBit_meets (hok : s.Huf8Ok) : poolBit.Meets s fun _ t => ∃ h, t = s.setH8 h ∧ s.PoolStepped h := by
  obtain ⟨hlow, hinside⟩ := hok.pool
  have hword := hok.word
  have deliver {pw : Word32} {pidx pbits : Nat} (hpos : 0 < pbits) (h32 : pbits ≤ 32) (h8 : 8 ≤ pidx)
      (hin : pidx ≤ s.inLen.toNat)
      (hle : 8 * (s.inLen.toNat - pidx) + pbits ≤ 8 * (s.inLen.toNat - s.h8.pidx) + s.h8.pbits) :
      Op.Meets (do
        let s ← get
        update fun s => s.setH8 { s.h8 with pbits := s.h8.pbits - 1 }
        return s.h8.pw.getLsbD (s.h8.pbits - 1)) (s.setH8 { s.h8 with pw := pw, pidx := pidx, pbits := pbits })
        fun _ t => ∃ h, t = s.setH8 h ∧ s.PoolStepped h := by
    refine .get_bind (.update_bind (.pure ⟨_, rfl, rfl, rfl, rfl, ?_, h8, .inr hin, ?_⟩)) <;>
      simp only [State.setH8] <;> omega
  refine .get_bind (.ite (fun h0 => ?_) fun h0 => ?_)
  · refine (memRead_meets s.h8.pidx 4 s).bind fun bs u ⟨hu, hin, _⟩ => .update_bind ?_
    subst hu
    exact deliver (by decide) (Nat.le_refl 32) (by omega) hin (by omega)
  · exact deliver (Nat.pos_of_ne_zero h0) hword hlow (hinside.resolve_left h0) (Nat.le_refl _)

/-- The walk's invariant and bound behind a pool bit. -/
theorem State.good_h8Walk_of_pool {m cur oc : Nat} {mem : Memory} {h : Huf8Regs} {p : Phase} (hphase : p = .h8Walk)
    (hrun : s.status.running) (hok : s.Huf8Ok) (hpool : s.PoolStepped h) (hcur : cur < s.h8.tsize)
    (hoc : oc < s.declared) (hm : 8 * (s.inLen.toNat - s.h8.pidx) + s.h8.pbits + 1 = m) :
    State.Good m { s with h8 := { h with cur := cur }, outMem := mem, oc := oc, phase := p } := by
  refine State.good_h8Walk hphase hrun ?_ (by rw [← hm]; exact Nat.succ_lt_succ hpool.fewer)
  exact {
    length := hok.length
    cursor := hoc.le
    format := hok.format
    open_ := hoc
    kind := hok.kind
    symbols := by simpa only [hpool.sc] using hok.symbols
    table := by simpa only [hpool.sc, hpool.tsize] using hok.table
    inside := by simpa only [hpool.tsize] using hok.inside
    node := by simpa only [hpool.tsize] using hcur
    word := hpool.word
    pool := ⟨hpool.low, hpool.inside⟩ }

theorem checkChildOp_meets (child : Nat) (s : State) :
    (checkChildOp child).Meets s fun _ t => t = s ∧ child < s.h8.tsize := by
  unfold Op.Meets
  rcases checkChildOp_cases s child with ⟨-, h⟩ | ⟨-, -, h⟩ | ⟨hlt, -, h⟩ <;> rw [h]
  · trivial
  · trivial
  · exact ⟨rfl, hlt⟩

theorem h8EdgeOp_meets (hphase : s.phase = .h8Walk) (hrun : s.status.running) (hok : s.Huf8Ok) (b : Nat)
    (leaf : Byte → Bool) : (h8EdgeOp b leaf).Meets s fun _ t => t.Good s.measure := by
  have hmeasure : 8 * (s.inLen.toNat - s.h8.pidx) + s.h8.pbits + 1 = s.measure := by
    simp only [State.measure, hphase]
  refine (poolBit_meets hok).bind fun _ u ⟨h, hu, hpool⟩ => .get_bind ?_
  subst hu
  refine (memRead_meets _ 1 _).bind fun bs u ⟨hu, _⟩ => ?_
  subst hu
  refine (checkChildOp_meets _ _).bind fun _ u ⟨hu, hchild⟩ => ?_
  subst hu
  refine .ite (fun _ => ?leaf) fun _ => .update ?node
  case node =>
    exact State.good_h8Walk_of_pool (s := s) hphase hrun hok hpool (hpool.tsize ▸ hchild) hok.open_ hmeasure
  case leaf =>
    refine (memRead_meets _ 1 _).bind fun bs u ⟨hu, _⟩ => ?_
    subst hu
    refine (emitByte_meets _ _).bind fun _ u ⟨mem, oc, hu, hoc⟩ => .update ?_
    subst hu
    dsimp only
    split_ifs with hend
    · exact State.good_complete hok.length hend
    · have hlt : oc < s.declared := Nat.lt_of_le_of_ne hoc hend
      have hnode := hok.node
      exact State.good_h8Walk_of_pool (s := s) (cur := 0) rfl hrun hok hpool (by omega) hlt hmeasure

theorem advances_h8Walk (hphase : s.phase = .h8Walk) (hrun : s.status.running) (hok : s.Huf8Ok) :
    s.Advances (engineTurn s) := by
  refine State.advances_of_look (fetch_h8Walk hphase) lookPoolBit_local ?_
  refine (poolBit_meets hok).bind fun b _ _ => .pure (.inl ?_)
  cases b with
  | false => exact ⟨.h8Bit0, rfl, State.advances_runOp (h8EdgeOp_local _ _) (h8EdgeOp_meets hphase hrun hok _ _)⟩
  | true => exact ⟨.h8Bit1, rfl, State.advances_runOp (h8EdgeOp_local _ _) (h8EdgeOp_meets hphase hrun hok _ _)⟩

theorem advances_h8Setup (hphase : s.phase = .h8Setup) (hrun : s.status.running) (hok : s.CallOk) (hoc : s.oc = 0)
    (hkind : s.fmt = Format.huf8.code) : s.Advances (engineTurn s) := by
  have hmeasure : s.measure = 8 * s.inLen.toNat + 2 := by simp only [State.measure, hphase]
  rw [engineTurn, fetch_of_phase hphase (i := .h8Setup) (by simp)]
  refine State.advances_runOp h8SetupOp_local ?_
  refine (memRead_meets 4 1 s).bind fun bs u ⟨hu, _⟩ => .update_bind (.get_bind ?_)
  subst hu
  have hbyte := (bs.headD 0).isLt
  refine .ite (fun hempty => .update (State.good_complete hok.length ?_)) fun hopen => ?_
  · exact hoc.trans hempty.symm
  · refine .ite (fun _ => .raised _) fun hin => .update (State.good_h8Walk rfl hrun ?_ ?_)
    · exact {
        length := hok.length
        cursor := hok.cursor
        format := hok.format
        open_ := by
          have hcursor := hok.cursor
          simp only [State.setH8] at hopen
          simp only [State.setPhase, State.setH8]
          omega
        kind := hkind
        symbols := by simp only [State.setPhase, State.setH8]; omega
        table := rfl
        inside := Nat.not_lt.mp hin
        node := by simp only [State.setPhase, State.setH8]; omega
        word := Nat.zero_le 32
        pool := ⟨by simp only [State.setPhase, State.setH8, align4]; omega, .inl rfl⟩ }
    · simp only [State.setPhase, State.setH8, hmeasure]
      omega

end Huf8

end Sys2Proof.Machine

namespace Sys2Proof.Machine

/-! ### LZH8 -/

section ReadTo
variable {s t u : State} {r r' : BitReader} {n m : Nat}

/-- The reader of the state behind a read. -/
theorem State.ReadTo.reader (h : s.ReadTo r n t) : ∃ r', t.br = some r' ∧ t.ReaderOk r' ∧ t = s.setReader r' ∧
    r.Ahead r' n := by
  obtain ⟨r', rfl, hok, hahead⟩ := h
  exact ⟨r', rfl, (s.sameInput_setReader r').readerOk hok, rfl, hahead⟩

theorem State.ReadTo.trans (h : s.ReadTo r n t) (hr : t.br = some r') (h' : t.ReadTo r' m u) :
    s.ReadTo r (n + m) u := by
  obtain ⟨r₁, rfl, hok, hahead⟩ := h
  obtain ⟨r₂, rfl, hok₂, hahead₂⟩ := h'
  have hsame : r₁ = r' := Option.some.inj hr
  subst hsame
  have hpos := hahead.pos
  have hpos₂ := hahead₂.pos
  exact ⟨r₂, rfl, (s.sameInput_setReader r₁).symm.readerOk hok₂, hahead₂.lo.trans hahead.lo,
    hahead₂.hi.trans hahead.hi, hahead₂.limit.trans hahead.limit, by omega⟩

theorem State.bitsLeft_of_some (hr : s.br = some r) : s.bitsLeft = r.limit - r.pos := by
  simp only [State.bitsLeft, hr]

/-- A reader that has moved has fewer bits left. -/
theorem State.ReadTo.bitsLeft_lt (hr : s.br = some r) (h : s.ReadTo r 1 t) : t.bitsLeft < s.bitsLeft := by
  obtain ⟨r', hr', hok, -, -, -, hlimit, hpos⟩ := h.reader
  have hdelivered := hok.delivered
  rw [State.bitsLeft_of_some hr, State.bitsLeft_of_some hr']
  omega

theorem State.ReadTo.weaken (h : s.ReadTo r n t) (hle : m ≤ n) : s.ReadTo r m t := by
  obtain ⟨r', ht, hok, hlo, hhi, hlimit, hpos⟩ := h
  exact ⟨r', ht, hok, hlo, hhi, hlimit, by omega⟩

/-- The symbols of T1 and T2, one behind the other (rules R111, R121). -/
theorem bothSymbols_meets {α : Type} {k : Nat → Op α} {Q : α → State → Prop} {size1 size2 : Nat} (hr : s.br = some r)
    (hok : s.ReaderOk r) (h1 : s.t1.symbolsBelow size1) (h2 : s.t2.symbolsBelow size2)
    (hk : ∀ v u, v < size2 → s.ReadTo r 1 u → (k v).Meets u Q) :
    (decodeSymbol .t1 >>= fun _ => decodeSymbol .t2 >>= k).Meets s Q := by
  refine (decodeSymbol_meets (t := .t1) hr hok h1).bind fun _ u ⟨_, hu⟩ => ?_
  obtain ⟨r₁, hr₁, hok₁, rfl, -⟩ := hu.reader
  exact (decodeSymbol_meets (t := .t2) hr₁ hok₁ h2).bind fun v w ⟨hv, hw⟩ =>
    hk v w hv ((hu.trans hr₁ hw).weaken (by decide))

end ReadTo

theorem capacityCheckOp_meets (len : Nat) (s : State) : (capacityCheckOp len).Meets s fun _ t => t = s := by
  unfold Op.Meets
  rcases capacityCheckOp_cases s len with h | h <;> rw [h]
  trivial

section Lzh8
variable {s : State} {m : Nat}

/-- LZH8_NEXT behind a token (rule R114): `u` is the state behind its bits. -/
theorem State.good_lzh8Next {u : State} {r : BitReader} {mem : Memory} {oc : Nat} (hrun : s.status.running)
    (hok : s.Lzh8Ok) (hr : s.br = some r) (hu : s.ReadTo r 1 u) (hoc : oc ≤ u.declared) (hphase : s.phase = .lzh8Body) :
    (State.lzh8Next { u with outMem := mem, oc := oc }).Good s.measure := by
  have hbits := hu.bitsLeft_lt hr
  have hmeasure : s.measure = s.bitsLeft + 1 := by simp only [State.measure, hphase]
  obtain ⟨r', hr', hok', rfl, -⟩ := hu.reader
  unfold State.lzh8Next
  split_ifs with hend
  · exact State.good_complete hok.length hend
  · refine State.good_lzh8Body rfl hrun ?_ (by rw [hmeasure]; exact Nat.succ_lt_succ hbits)
    exact {
      length := hok.length
      cursor := hoc
      format := hok.format
      open_ := Nat.lt_of_le_of_ne hoc hend
      kind := hok.kind
      reader := ⟨r', rfl, State.SameInput.readerOk (s := s.setReader r') ⟨fun _ => rfl, rfl, rfl⟩ hok'⟩
      symbols1 := hok.symbols1
      symbols2 := hok.symbols2 }

theorem lzh8Lit_advances (hphase : s.phase = .lzh8Body) (hrun : s.status.running) (hok : s.Lzh8Ok) (b : Byte) :
    s.Advances (exec (.lzh8Lit b) s) := by
  obtain ⟨r, hr, hrok⟩ := hok.reader
  refine State.advances_runOp
    ((decodeSymbol_local .t1).bind fun _ => (emitByte_local b).bind fun _ => lzh8Next_local) ?_
  refine (decodeSymbol_meets (t := .t1) hr hrok hok.symbols1).bind fun _ u ⟨_, hu⟩ => ?_
  refine (emitByte_meets b u).bind fun _ v ⟨mem, oc, hv, hoc⟩ => .update ?_
  subst hv
  exact State.good_lzh8Next hrun hok hr hu hoc hphase

theorem lzh8Ref_advances (hphase : s.phase = .lzh8Body) (hrun : s.status.running) (hok : s.Lzh8Ok) (len3 : BitVec 8) :
    s.Advances (exec (.lzh8Ref len3) s) := by
  obtain ⟨r, hr, hrok⟩ := hok.reader
  refine State.advances_runOp (lzh8RefOp_local _) ?_
  refine bothSymbols_meets hr hrok hok.symbols1 hok.symbols2 fun displen u _ hu => ?_
  obtain ⟨r', hr', hok', -, -⟩ := hu.reader
  refine (lzh8DispOp_reading displen u r' hr' hok').bind fun d v ⟨_, hv⟩ => ?_
  refine (copyOp_meets _ _ v).bind fun _ w ⟨mem, oc, hw, hoc⟩ => .update ?_
  subst hw
  exact State.good_lzh8Next hrun hok hr (hu.trans hr' hv) hoc hphase

theorem advances_lzh8Body (hphase : s.phase = .lzh8Body) (hrun : s.status.running) (hok : s.Lzh8Ok) :
    s.Advances (engineTurn s) := by
  obtain ⟨r, hr, hrok⟩ := hok.reader
  refine State.advances_of_look (k := .still) (fetch_lzh8Body hphase) (lookSymbol_local _) ?_
  refine (decodeSymbol_meets (t := .t1) hr hrok hok.symbols1).bind fun v u ⟨hv, _⟩ => .pure ?_
  rcases Nat.lt_or_ge v (2 ^ 9) with hlt | hge
  · rw [decode_lzh8Sym1 hlt]
    split_ifs
    · exact .inl ⟨_, rfl, lzh8Lit_advances hphase hrun hok _⟩
    · exact .inl ⟨_, rfl, lzh8Ref_advances hphase hrun hok _⟩
  · refine .inr (.inr ⟨⟨_, if_pos hge⟩, fun ⟨_, hsize, _⟩ => ?_⟩)
    omega

/-- The declared length and OUT_LEN after the second length, if one is read. -/
theorem lzh8LengthOp_meets (hlen : s.outLen.toNat = s.declared) : lzh8LengthOp.Meets s fun _ u =>
    ∃ len out, u = { s with declared := len, outLen := out } ∧ out.toNat = len := by
  refine .get_bind (.ite (fun _ => ?_) fun _ => .pure ⟨_, _, rfl, hlen⟩)
  cases s.cfg.extLenMode with
  | error => exact .raised _
  | read =>
    refine ((memRead_meets 4 4 s).bind (R := fun len u => u = s ∧ len < 2 ^ 32) fun bs u ⟨hu, _, hbs⟩ => ?_).bind ?_
    · have hlt := leValue_lt bs
      rw [show bs.length = 4 by rw [hbs, State.inBytes_length]] at hlt
      exact .pure ⟨hu, hlt⟩
    · rintro len u ⟨rfl, hlt⟩
      refine .update_bind ((capacityCheckOp_meets len _).bind fun _ v hv => .pure ?_)
      subst hv
      exact ⟨len, _, rfl, by rw [BitVec.toNat_ofNat, Nat.mod_eq_of_lt hlt]⟩

theorem advances_lzh8Setup (hphase : s.phase = .lzh8Setup) (hrun : s.status.running) (hok : s.CallOk) (hoc : s.oc = 0)
    (hkind : s.fmt = Format.lzh8.code) : s.Advances (engineTurn s) := by
  have hmeasure : s.measure = 8 * s.inLen.toNat + 2 := by simp only [State.measure, hphase]
  rw [engineTurn, fetch_of_phase hphase (i := .lzh8Setup) (by simp)]
  refine State.advances_runOp lzh8SetupOp_local ?_
  refine (lzh8LengthOp_meets hok.length).bind fun a u ⟨len, out, hu, hout⟩ => .get_bind ?_
  subst hu
  refine .ite (fun hempty => .update (State.good_complete hout (hoc.trans hempty.symm))) fun hopen => ?_
  refine (lzh8TableOp_meets _ .t1 _ a).bind fun b v ⟨_, br, x1, hv, hx1⟩ => ?_
  refine (lzh8TableOp_meets v .t2 _ b).bind fun c w ⟨hin, br', x2, hw, hx2⟩ => .update_bind (.update ?_)
  subst hv hw
  refine State.good_lzh8Body rfl hrun ?_ ?_
  · exact {
      length := hout
      cursor := hoc.trans_le (Nat.zero_le _)
      format := hok.format
      open_ := hoc.trans_lt (Nat.pos_of_ne_zero hopen)
      kind := hkind
      reader := ⟨_, rfl, State.readerOk_init hin (Nat.le_refl _) (Nat.le_refl _)⟩
      symbols1 := hx1
      symbols2 := hx2 }
  · rw [State.bitsLeft_of_some rfl, BitReader.pos_init, hmeasure]
    simp only [BitReader.init, Option.getD_none]
    omega

end Lzh8

end Sys2Proof.Machine

namespace Sys2Proof.Machine

/-! ### Romchu -/

section Romchu
variable {s : State} {m : Nat}

theorem State.measure_rcBody (h : s.phase = .rcBody) :
    s.measure = s.bitsLeft + 8 * (s.inLen.toNat - s.rc.next) + 1 := by
  simp only [State.measure, h]

theorem State.measure_rcBlock (h : s.phase = .rcBlock) : s.measure = 8 * (s.inLen.toNat - s.ip) + 1 := by
  simp only [State.measure, h]

/-- The end of a block (rules R116, R124): the output is whole, or the next block follows. -/
theorem State.good_rcBlockEnd (hrun : s.status.running) (hcall : s.CallOk) (hkind : s.fmt = Format.romchu.code)
    (hinput : s.ip ≤ s.inLen.toNat) (hm : 8 * (s.inLen.toNat - s.ip) + 1 < m) :
    State.Good m (if s.oc = s.declared then s.complete else s.setPhase .rcBlock) := by
  split_ifs with hend
  · exact State.good_complete hcall.length hend
  · exact State.good_rcBlock rfl hrun
      ⟨⟨hcall.length, hcall.cursor, hcall.format⟩, Nat.lt_of_le_of_ne hcall.cursor hend, hkind, hinput⟩ hm

/-- RC_NEXT in an open block (rule R124). -/
theorem rcNextOp_meets {r : BitReader} (hr : s.br = some r) (hok : s.ReaderOk r) (hhi : r.hi = s.rc.next)
    (hrun : s.status.running) (hcall : s.CallOk) (hkind : s.fmt = Format.romchu.code)
    (h1 : s.t1.symbolsBelow s.cfg.rcS1) (h2 : s.t2.symbolsBelow s.cfg.rcS2)
    (hm : s.bitsLeft + 8 * (s.inLen.toNat - s.rc.next) + 1 < m) : rcNextOp.Meets s fun _ t => t.Good m := by
  refine (reader_meets hr).bind fun r' u ⟨hr', hu⟩ => .update ?_
  subst hr' hu
  dsimp only
  split_ifs with hmore hend
  · refine State.good_rcBody rfl hrun ?_ hm
    exact {
      length := hcall.length
      cursor := hcall.cursor
      format := hcall.format
      kind := hkind
      reader := ⟨r', hr, State.SameInput.readerOk (s := u) ⟨fun _ => rfl, rfl, rfl⟩ hok, hmore, hhi⟩
      symbols1 := h1
      symbols2 := h2 }
  all_goals
    have hgood := State.good_rcBlockEnd (s := u.setIp u.rc.next) (m := m) hrun
      ⟨hcall.length, hcall.cursor, hcall.format⟩ hkind (hhi ▸ hok.inside)
      (by simp only [State.setIp]; omega)
  · rwa [if_pos hend] at hgood
  · rwa [if_neg hend] at hgood

/-- RC_NEXT behind a token: `u` is the state behind its bits. -/
theorem rcNextOp_meets_of_token {u : State} {r : BitReader} {mem : Memory} {oc : Nat} (hphase : s.phase = .rcBody)
    (hrun : s.status.running) (hok : s.RcBodyOk) (hr : s.br = some r) (hhi : r.hi = s.rc.next) (hu : s.ReadTo r 1 u)
    (hoc : oc ≤ u.declared) :
    rcNextOp.Meets { u with outMem := mem, oc := oc } fun _ t => t.Good s.measure := by
  have hbits := hu.bitsLeft_lt hr
  obtain ⟨r', hr', hok', rfl, hahead⟩ := hu.reader
  have hm : (s.setReader r').bitsLeft + 8 * (s.inLen.toNat - s.rc.next) + 1 < s.measure := by
    rw [State.measure_rcBody hphase]
    omega
  exact rcNextOp_meets (s := { s.setReader r' with outMem := mem, oc := oc }) rfl
    (State.SameInput.readerOk (s := s.setReader r') ⟨fun _ => rfl, rfl, rfl⟩ hok') (hahead.hi.trans hhi) hrun
    ⟨hok.length, hoc, hok.format⟩ hok.kind hok.symbols1 hok.symbols2 hm

theorem rcLit_advances (hphase : s.phase = .rcBody) (hrun : s.status.running) (hok : s.RcBodyOk) (b : Byte) :
    s.Advances (exec (.rcLit b) s) := by
  obtain ⟨r, hr, hrok, -, hhi⟩ := hok.reader
  refine State.advances_runOp ((decodeSymbol_local .t1).bind fun _ => .get_bind fun _ =>
    .ite (.raised _) ((emitByte_local b).bind fun _ => rcNextOp_local)) ?_
  refine (decodeSymbol_meets (t := .t1) hr hrok hok.symbols1).bind fun _ u ⟨_, hu⟩ => .get_bind ?_
  refine .ite (fun _ => .raised _) fun _ => (emitByte_meets b u).bind fun _ v ⟨mem, oc, hv, hoc⟩ => ?_
  subst hv
  exact rcNextOp_meets_of_token hphase hrun hok hr hhi hu hoc

theorem rcRef_advances (hphase : s.phase = .rcBody) (hrun : s.status.running) (hok : s.RcBodyOk) {cls : BitVec 8}
    (hcls : cls.toNat < 29) : s.Advances (exec (.rcRef cls) s) := by
  obtain ⟨r, hr, hrok, -, hhi⟩ := hok.reader
  refine State.advances_runOp (rcRefOp_local _) ?_
  refine bothSymbols_meets hr hrok hok.symbols1 hok.symbols2 fun dc u hdc hu => ?_
  obtain ⟨r₁, hr₁, hok₁, rfl, -⟩ := hu.reader
  refine (rcLenClassOp_reading hcls _ r₁ hr₁ hok₁).bind fun length v ⟨_, hv⟩ => ?_
  obtain ⟨r₂, hr₂, hok₂, rfl, -⟩ := hv.reader
  refine (rcDistClassOp_meets hr₂ hok₂ hdc).bind fun distance w hw => ?_
  refine (copyOp_meets _ _ w).bind fun _ x ⟨mem, oc, hx, hoc⟩ => ?_
  subst hx
  exact rcNextOp_meets_of_token hphase hrun hok hr hhi ((hu.trans hr₁ hv).trans hr₂ hw) hoc

/-- A symbol above the classes is above the source's alphabet (rule R63). -/
theorem decode_rcSym1_advances (hphase : s.phase = .rcBody) (hrun : s.status.running) (hok : s.RcBodyOk) {v : Nat}
    (hv : v < s.cfg.rcS1) : (∃ i, decode .rcSym1 v [] = .ok i ∧ s.Advances (exec i s)) ∨
      decode .rcSym1 v [] = .error .needsBytes ∨
        (∃ e, decode .rcSym1 v [] = .error e) ∧ ¬ (s.inCovered ∧ alphabetsOk s.cfg) := by
  rcases Nat.lt_or_ge v (2 ^ 9) with hlt | hge
  · rw [decode_rcSym1 hlt]
    split_ifs with hlit hclass
    · exact .inl ⟨_, rfl, rcLit_advances hphase hrun hok _⟩
    · refine .inl ⟨_, rfl, rcRef_advances hphase hrun hok ?_⟩
      simp only [bitField, BitVec.toNat_ofNat]
      omega
    · refine .inl ⟨_, rfl, fun ⟨_, _, hsize, _⟩ => ?_⟩
      omega
  · refine .inr (.inr ⟨⟨_, if_pos hge⟩, fun ⟨_, _, hsize, _⟩ => ?_⟩)
    omega

theorem advances_rcBody (hphase : s.phase = .rcBody) (hrun : s.status.running) (hok : s.RcBodyOk) :
    s.Advances (engineTurn s) := by
  obtain ⟨r, hr, hrok, -, -⟩ := hok.reader
  refine State.advances_of_look (k := .still) (fetch_rcBody hphase) (lookSymbol_local _) ?_
  exact (decodeSymbol_meets (t := .t1) hr hrok hok.symbols1).bind fun v u ⟨hv, _⟩ =>
    .pure (decode_rcSym1_advances hphase hrun hok hv)

/-- The state in which both tables have been written, one after the other. -/
theorem State.WithTable.both {P Q : Table → Prop} {u v : State} (h1 : s.WithTable .t1 P u) (h2 : u.WithTable .t2 Q v) :
    ∃ br x1 x2, v = { s with br := br, t1 := x1, t2 := x2 } ∧ P x1 ∧ Q x2 := by
  obtain ⟨br, x1, rfl, hx1⟩ := h1
  obtain ⟨br', x2, rfl, hx2⟩ := h2
  exact ⟨br', x1, x2, rfl, hx1, hx2⟩

theorem State.WithTable.rc {P : Table → Prop} {t : TableId} {u : State} (h : s.WithTable t P u) : u.rc = s.rc := by
  obtain ⟨br, x, rfl, -⟩ := h
  cases t <;> rfl

theorem rcHeaderOp_meets (s : State) : rcHeaderOp.Meets s fun _ t => t = s ∧ s.ip + 4 ≤ s.inLen.toNat :=
  .get_bind <| .ite (fun _ => .raised _) fun _ => (memRead_meets s.ip 4 s).bind fun _ _ ⟨ht, hin, _⟩ => .pure ⟨ht, hin⟩

theorem rcOpenOp_meets (n : Nat) (s : State) :
    (rcOpenOp n).Meets s fun _ t => t = s.rcOpened n ∧ s.ip + 4 ≤ s.inLen.toNat :=
  (rcHeaderOp_meets s).bind fun _ _ ⟨ht, hin⟩ => .update ⟨ht ▸ rfl, hin⟩

theorem rcRawOp_meets (hphase : s.phase = .rcBlock) (hrun : s.status.running) (hok : s.RcBlockOk)
    (hin : s.ip + 4 ≤ s.inLen.toNat) (n : Nat) : rcRawOp.Meets (s.rcOpened n) fun _ t => t.Good s.measure := by
  have hm := State.measure_rcBlock hphase
  refine .get_bind (.ite (fun _ => .raised _) fun hfits => .ite (fun _ => .raised _) fun hend => ?_)
  refine (memRead_meets _ _ _).bind fun bs u ⟨hu, _, hbs⟩ => .update ?_
  have hlen : bs.length = n := by rw [hbs, State.inBytes_length]; rfl
  subst hu
  rw [State.emitAll_frame]
  have hoc : s.oc + n ≤ s.declared := Nat.not_lt.mp hfits
  have hip : s.ip + 4 + n ≤ s.inLen.toNat := Nat.not_lt.mp hend
  exact State.good_rcBlockEnd (s := { s with
      ip := s.ip + 4 + n, rc := { s.rc with n := n, payload := s.ip + 4, next := s.ip + 4 + n }
      oc := s.oc + bs.length, outMem := (State.emitAll bs (s.rcOpened n)).outMem }) hrun
    ⟨hok.length, by dsimp only; omega, hok.format⟩ hok.kind hip (by dsimp only; omega)

theorem rcCompOp_meets (hphase : s.phase = .rcBlock) (hrun : s.status.running) (hok : s.RcBlockOk)
    (hin : s.ip + 4 ≤ s.inLen.toNat) (n : Nat) : rcCompOp.Meets (s.rcOpened n) fun _ t => t.Good s.measure := by
  have hm := State.measure_rcBlock hphase
  refine .update_bind (.get_bind (.ite (fun _ => .raised _) fun hend => ?_))
  refine (rcTableOp_meets _ .t1 _ _).bind fun e1 u ⟨_, hu⟩ => ?_
  have hsame := hu.rc
  refine (rcTableOp_meets u .t2 _ _).bind fun e2 v ⟨he2, hv⟩ => .update_bind ?_
  rw [hsame] at he2
  obtain ⟨br, x1, x2, rfl, hx1, hx2⟩ := hu.both hv
  have hn : n ≤ 8 * ceil8 n := by unfold ceil8; omega
  have he : e2 ≤ n := he2
  have hnext : s.ip + 4 + ceil8 n ≤ s.inLen.toNat := Nat.not_lt.mp hend
  have hreader : s.ReaderOk (BitReader.init (s.ip + 4 + e2 / 8) (s.ip + 4 + ceil8 n) (some (n - e2))) :=
    State.readerOk_init (by omega) hnext (by omega)
  refine rcNextOp_meets (r := BitReader.init (s.ip + 4 + e2 / 8) (s.ip + 4 + ceil8 n) (some (n - e2))) rfl
    (State.SameInput.readerOk (s := s) ⟨fun _ => rfl, rfl, rfl⟩ hreader) rfl hrun
    ⟨hok.length, hok.cursor, hok.format⟩ hok.kind hx1 hx2 ?_
  rw [State.bitsLeft_of_some rfl, BitReader.pos_init, hm]
  change n - e2 - 0 + 8 * (s.inLen.toNat - (s.ip + 4 + ceil8 n)) + 1 < _
  omega

theorem advances_rcBlock (hphase : s.phase = .rcBlock) (hrun : s.status.running) (hok : s.RcBlockOk) :
    s.Advances (engineTurn s) := by
  rw [engineTurn, fetch_of_phase hphase (i := .rcBlock) (by simp)]
  refine State.advances_runOp rcBlockOp_local ?_
  refine (rcHeaderOp_meets s).bind fun w u ⟨hu, hin⟩ => ?_
  subst hu
  refine (rcOpenOp_meets _ u).bind fun _ v ⟨hv, _⟩ => ?_
  subst hv
  exact .ite (fun _ => rcRawOp_meets hphase hrun hok hin _) fun _ => rcCompOp_meets hphase hrun hok hin _

end Romchu

end Sys2Proof.Machine

namespace Sys2Proof.Machine

/-! ### DISPATCH -/

section Dispatch
variable {s : State} {m : Nat}

theorem tagPresentOp_meets (s : State) : tagPresentOp.Meets s fun _ t => t = s :=
  .get_bind <| .ite (fun _ => (memRead_meets 0 5 s).bind fun _ _ ⟨ht, _⟩ => .pure ht) fun _ => .pure rfl

theorem headerAddress_meets (s : State) : headerAddress.Meets s fun _ t => t = s :=
  (tagPresentOp_meets s).bind fun _ _ ht => .pure ht

/-- What DISPATCH finds: the state START leaves, aside from the host's fields (rules R125, R143). -/
structure State.Opened (s : State) : Prop where
  phase : s.phase = .dispatch
  running : s.status.running
  cursor : s.oc = 0

theorem State.Opened.measure (h : s.Opened) : s.measure = 8 * s.inLen.toNat + 4 := by
  simp only [State.measure, h.phase]

/-- The registers of a call whose header has been recorded (rule R128). -/
theorem State.Opened.callOk_recorded (h : s.Opened) (f : Format) {len : Nat} (hlen : len < 2 ^ 32) (next : Nat) :
    (s.recorded f len next).CallOk where
  length := (BitVec.toNat_ofNat ..).trans (Nat.mod_eq_of_lt hlen)
  cursor := h.cursor.trans_le (Nat.zero_le _)
  format := rfl

/-- The first phase of a window format (rules R90, R91). -/
theorem State.good_windowEntered (hrun : s.status.running) (hcall : s.CallOk)
    (hkind : s.fmt = Format.lz10.code ∨ s.fmt = Format.lz11.code ∨ s.fmt = Format.n64lz.code)
    (hinput : s.ip ≤ s.inLen.toNat) (hm : 8 * (s.inLen.toNat - s.ip) + 1 < m) :
    State.Good m (if s.declared = 0 then State.complete { s with oc := 0, fcnt := 0 }
      else State.setPhase { s with oc := 0, fcnt := 0 } .lzFlag) := by
  split_ifs with hempty
  · exact State.good_complete hcall.length hempty.symm
  · exact State.good_lzFlag rfl hrun
      ⟨⟨hcall.length, Nat.zero_le _, hcall.format⟩, Nat.pos_of_ne_zero hempty, Nat.zero_le _, hkind, hinput⟩ rfl hm

/-- The first phase of each format (rule R131). -/
theorem State.Opened.good_enter (h : s.Opened) (f : Format) {len next : Nat} (hlen : len < 2 ^ 32)
    (hnext : next ≤ s.inLen.toNat) : ((s.recorded f len next).enter f len).Good s.measure := by
  have hcall := h.callOk_recorded f hlen next
  have hblock : 8 * (s.inLen.toNat - next) + 1 < s.measure := by rw [h.measure]; omega
  have hsetup : 8 * s.inLen.toNat + 2 < s.measure := by rw [h.measure]; omega
  cases f with
  | lz10 => exact (s.recorded .lz10 len next).good_windowEntered h.running hcall (.inl rfl) hnext hblock
  | lz11 => exact (s.recorded .lz11 len next).good_windowEntered h.running hcall (.inr (.inl rfl)) hnext hblock
  | n64lz => exact (s.recorded .n64lz len next).good_windowEntered h.running hcall (.inr (.inr rfl)) hnext hblock
  | huf8 => exact good_h8Setup rfl h.running ⟨hcall.length, hcall.cursor, hcall.format⟩ h.cursor rfl hsetup
  | lzh8 => exact good_lzh8Setup rfl h.running ⟨hcall.length, hcall.cursor, hcall.format⟩ h.cursor rfl hsetup
  | romchu =>
    unfold State.enter
    dsimp only
    split_ifs with hempty
    · exact good_complete hcall.length (h.cursor.trans hempty.symm)
    · exact good_rcBlock rfl h.running ⟨⟨hcall.length, hcall.cursor, hcall.format⟩,
        h.cursor.trans_lt (Nat.pos_of_ne_zero hempty), rfl, hnext⟩ hblock

theorem dispatchCommit_meets (h : s.Opened) (f : Format) {len next : Nat} (hlen : len < 2 ^ 32)
    (hnext : next ≤ s.inLen.toNat) : (dispatchCommit f len next).Meets s fun _ t => t.Good s.measure :=
  .update_bind <| (capacityCheckOp_meets len _).bind fun _ _ ht => .update (ht ▸ h.good_enter f hlen hnext)

theorem dispatchLeOp_meets (h : s.Opened) (f : Format) {len : Nat} (hlen : len < 2 ^ 32) :
    (dispatchLeOp f len).Meets s fun _ t => t.Good s.measure := by
  refine (headerAddress_meets s).bind fun a t ht => ?_
  subst ht
  refine (memRead_meets a 4 t).bind fun _ u ⟨hu, hin, _⟩ => ?_
  subst hu
  exact .get_bind (.ite (fun _ => .raised _) fun _ => dispatchCommit_meets h f hlen hin)

theorem dispatchBeOp_meets (h : s.Opened) (f : Format) {len : Nat} (hlen : len < 2 ^ 32) :
    (dispatchBeOp f len).Meets s fun _ t => t.Good s.measure := by
  refine (memRead_meets 0 4 s).bind fun _ u ⟨hu, hin, _⟩ => ?_
  subst hu
  exact .get_bind (.ite (fun _ => .raised _) fun _ => dispatchCommit_meets h f hlen (by omega))

theorem be32_meets (a : Nat) (s : State) : (be32 a).Meets s fun v t => t = s ∧ v < 2 ^ 32 :=
  (memRead_meets a 4 s).bind fun bs _ ⟨ht, _, hbs⟩ => .pure ⟨ht, by
    have hlt := beValue_lt bs
    rwa [show bs.length = 4 by rw [hbs, State.inBytes_length]] at hlt⟩

theorem le32_meets (a : Nat) (s : State) : (le32 a).Meets s fun v t => t = s ∧ v < 2 ^ 32 :=
  (memRead_meets a 4 s).bind fun bs _ ⟨ht, _, hbs⟩ => .pure ⟨ht, by
    have hlt := leValue_lt bs
    rwa [show bs.length = 4 by rw [hbs, State.inBytes_length]] at hlt⟩

theorem dispatchBeWord_meets (h : s.Opened) {w : Nat} (hw : w < 2 ^ 32) :
    (dispatchBeWord w).Meets s fun _ t => t.Good s.measure := by
  have hlen : w / 4 < 2 ^ 32 := by omega
  exact .ite (fun _ => dispatchBeOp_meets h _ hlen) fun _ => .ite (fun _ => dispatchBeOp_meets h _ hlen) fun _ =>
    .raised _

theorem dispatchLeWord_meets (h : s.Opened) {w : Nat} (hw : w < 2 ^ 32) :
    (dispatchLeWord w).Meets s fun _ t => t.Good s.measure := by
  have hrow (f : Format) : (dispatchLeOp f (w / 256)).Meets s fun _ t => t.Good s.measure :=
    dispatchLeOp_meets h f (by omega)
  exact .ite (fun _ => hrow _) fun _ => .ite (fun _ => hrow _) fun _ => .ite (fun _ => hrow _) fun _ =>
    .ite (fun _ => hrow _) fun _ => .raised _

theorem dispatchOp_meets (h : s.Opened) : dispatchOp.Meets s fun _ t => t.Good s.measure := by
  refine .get_bind (.ite (fun _ => .raised _) fun _ => .ite (fun _ => ?be) fun _ => ?le)
  case be =>
    refine (be32_meets 0 s).bind fun w t ⟨ht, hw⟩ => ?_
    subst ht
    exact dispatchBeWord_meets h hw
  case le =>
    refine (headerAddress_meets s).bind fun a t ht => ?_
    subst ht
    refine (le32_meets a t).bind fun w u ⟨hu, hw⟩ => ?_
    subst hu
    exact dispatchLeWord_meets h hw

theorem State.Opened.advances (h : s.Opened) : s.Advances (engineTurn s) := by
  rw [engineTurn, fetch_of_phase h.phase (i := .dispatch) (by simp)]
  exact State.advances_runOp dispatchOp_local (dispatchOp_meets h)

end Dispatch

/-! ### Every turn of the engine -/

section Turn
variable {s t : State}

/-- In a call's phase the engine's turn answers a state of the invariant, closer to the end of the call. -/
theorem State.PhaseOk.advances (h : s.PhaseOk) (hidle : s.phase ≠ .idle) (hdone : s.phase ≠ .done) :
    s.Advances (engineTurn s) := by
  unfold State.PhaseOk at h
  cases hphase : s.phase <;> rw [hphase] at h
  case idle => exact absurd hphase hidle
  case done => exact absurd hphase hdone
  case dispatch =>
    obtain ⟨hrun, -, -, hoc, -⟩ := h
    exact State.Opened.advances ⟨hphase, hrun, hoc⟩
  case lzFlag =>
    obtain ⟨hrun, hok, -⟩ := h
    exact advances_lzFlag hphase hrun hok
  case lzToken =>
    obtain ⟨hrun, hok, -⟩ := h
    exact advances_lzToken hphase hrun hok
  case h8Setup =>
    obtain ⟨hrun, hok, hoc, hkind⟩ := h
    exact advances_h8Setup hphase hrun hok hoc hkind
  case lzh8Setup =>
    obtain ⟨hrun, hok, hoc, hkind⟩ := h
    exact advances_lzh8Setup hphase hrun hok hoc hkind
  case h8Walk => exact advances_h8Walk hphase h.1 h.2
  case lzh8Body => exact advances_lzh8Body hphase h.1 h.2
  case rcBlock => exact advances_rcBlock hphase h.1 h.2
  case rcBody => exact advances_rcBody hphase h.1 h.2

/-- Outside a call the engine waits (rule R21). -/
theorem engineTurn_of_waiting (h : s.phase = .idle ∨ s.phase = .done) : engineTurn s = .next s := by
  rcases h with h | h <;> simp [engineTurn, fetch, h]

theorem State.Framed.refl (s : State) : s.Framed s := Reach.framed (k := .still) (Reach.refl _ s)

/-- The engine's turn writes within its operation's reach. -/
theorem engineTurn_framed (h : engineTurn s = .next t) : s.Framed t := by
  unfold engineTurn at h
  cases hf : fetch s with
  | wait =>
    rw [hf] at h
    cases h
    exact .refl s
  | run i =>
    rw [hf] at h
    exact (exec_local i).framed s t h
  | error e =>
    rw [hf] at h
    cases h
    exact (State.Framed.refl s).raise e
  | fault f =>
    rw [hf] at h
    cases h

/-- In a call's phase, with IN covered and the source's alphabets, the engine goes on, and comes closer to the end. -/
theorem State.PhaseOk.engineTurn_next (h : s.PhaseOk) (hcovered : s.inCovered) (halphabets : alphabetsOk s.cfg)
    (hidle : s.phase ≠ .idle) (hdone : s.phase ≠ .done) : ∃ t, engineTurn s = .next t ∧ t.Good s.measure := by
  have hadvances := h.advances hidle hdone
  cases hturn : engineTurn s with
  | next t =>
    rw [hturn] at hadvances
    exact ⟨t, rfl, hadvances⟩
  | fault f =>
    rw [hturn] at hadvances
    exact absurd ⟨hcovered, halphabets⟩ hadvances
  | refused r =>
    rw [hturn] at hadvances
    exact hadvances.elim

theorem State.Inv.engineTurn (h : s.Inv) (hturn : engineTurn s = .next t) : t.Inv := by
  have hframe := engineTurn_framed hturn
  refine ⟨hframe.inMem ▸ h.inWf, hframe.outWf h.outWf, ?_⟩
  by_cases hwait : s.phase = .idle ∨ s.phase = .done
  · rw [engineTurn_of_waiting hwait] at hturn
    cases hturn
    exact h.phaseOk
  · obtain ⟨hidle, hdone⟩ := not_or.mp hwait
    have hadvances := h.phaseOk.advances hidle hdone
    rw [hturn] at hadvances
    exact hadvances.1

end Turn

/-- Settles O57: in a call's phase by the turn's progress; outside a call the engine waits. -/
theorem engineAlwaysProceeds : Obligations.EngineAlwaysProceeds := by
  intro s h hcovered halphabets hhost
  rw [step_of_host_nil hhost]
  by_cases hwait : s.phase = .idle ∨ s.phase = .done
  · exact ⟨s, engineTurn_of_waiting hwait⟩
  · obtain ⟨hidle, hdone⟩ := not_or.mp hwait
    obtain ⟨t, hturn, -⟩ := h.phaseOk.engineTurn_next hcovered halphabets hidle hdone
    exact ⟨t, hturn⟩

/-! ### The host's turns keep the invariant -/

section Host
variable {s t : State}

/-- Other host turns to come, and another word read. -/
def State.withHost (s : State) (acts : List HostAct) (word : Word32) : State :=
  { s with host := acts, hostData := word }

theorem State.withHost_phase (s : State) (acts : List HostAct) (word : Word32) :
    (s.withHost acts word).phase = s.phase := rfl

/-- The phase's conditions do not look at the host's fields. -/
theorem State.PhaseOk.withHost (h : s.PhaseOk) (acts : List HostAct) (word : Word32) :
    (s.withHost acts word).PhaseOk := by
  have hcall (hok : s.CallOk) : (s.withHost acts word).CallOk := ⟨hok.length, hok.cursor, hok.format⟩
  have hreader {r : BitReader} (hok : s.ReaderOk r) : (s.withHost acts word).ReaderOk r :=
    State.SameInput.readerOk (s := s) ⟨fun _ => rfl, rfl, rfl⟩ hok
  unfold State.PhaseOk at h ⊢
  rw [State.withHost_phase]
  cases hphase : s.phase <;> rw [hphase] at h
  case idle | dispatch | done => exact h
  case lzFlag | lzToken =>
    obtain ⟨hrun, hok, hcount⟩ := h
    exact ⟨hrun, ⟨hcall hok.toCallOk, hok.open_, hok.count, hok.kind, hok.input⟩, hcount⟩
  case h8Setup | lzh8Setup =>
    obtain ⟨hrun, hok, hrest⟩ := h
    exact ⟨hrun, hcall hok, hrest⟩
  case h8Walk =>
    obtain ⟨hrun, hok⟩ := h
    exact ⟨hrun, hcall hok.toCallOk, hok.open_, hok.kind, hok.symbols, hok.table, hok.inside, hok.node, hok.word,
      hok.pool⟩
  case lzh8Body =>
    obtain ⟨hrun, hok⟩ := h
    obtain ⟨r, hr, hrok⟩ := hok.reader
    exact ⟨hrun, hcall hok.toCallOk, hok.open_, hok.kind, ⟨r, hr, hreader hrok⟩, hok.symbols1, hok.symbols2⟩
  case rcBlock =>
    obtain ⟨hrun, hok⟩ := h
    exact ⟨hrun, hcall hok.toCallOk, hok.open_, hok.kind, hok.input⟩
  case rcBody =>
    obtain ⟨hrun, hok⟩ := h
    obtain ⟨r, hr, hrok, hmore⟩ := hok.reader
    exact ⟨hrun, hcall hok.toCallOk, hok.kind, ⟨r, hr, hreader hrok, hmore⟩, hok.symbols1, hok.symbols2⟩

theorem State.Inv.withHost (h : s.Inv) (acts : List HostAct) (word : Word32) :
    (s.withHost acts word).Inv := ⟨h.inWf, h.outWf, h.phaseOk.withHost acts word⟩

/-- With BUSY = 0 no call runs (rules R18, R21). -/
theorem State.PhaseOk.waiting (h : s.PhaseOk) (hidle : s.status.busy = false) : s.phase = .idle ∨ s.phase = .done := by
  unfold State.PhaseOk at h
  have hnot (hrun : s.status.running) : False := Bool.noConfusion (hidle.symm.trans hrun.1)
  cases hphase : s.phase <;> rw [hphase] at h
  case idle => exact .inl rfl
  case done => exact .inr rfl
  all_goals exact (hnot h.1).elim

/-- Outside a call the phase's conditions look neither at TAG_HINT, IN_LEN nor IN. -/
theorem State.PhaseOk.withInput (h : s.PhaseOk) (hidle : s.status.busy = false) (hint : BitVec 3) (inLen : Word32)
    (inMem : Memory) : State.PhaseOk { s with hint := hint, inLen := inLen, inMem := inMem } := by
  have hwait := h.waiting hidle
  unfold State.PhaseOk at h ⊢
  dsimp only
  rcases hwait with hphase | hphase <;> rw [hphase] at h ⊢ <;> exact h

/-- START puts the machine in DISPATCH (rule R125). -/
theorem State.Inv.start (h : s.Inv) : s.start.Inv := ⟨h.inWf, h.outWf, ⟨rfl, rfl, rfl, rfl⟩, rfl, rfl, rfl, rfl⟩

theorem State.Inv.writeIdle {r : HostReg} {v : Word32} (h : s.Inv) (hidle : s.status.busy = false)
    (hturn : writeIdle r v s = .next t) : t.Inv := by
  cases r with
  | ctrl =>
    rw [writeIdle_ctrl] at hturn
    split_ifs at hturn
    · rw [exec_cmdStart_of_idle hidle hturn]
      exact h.start
    · cases hturn
      exact h
  | tagHint =>
    cases hturn
    exact ⟨h.inWf, h.outWf, h.phaseOk.withInput hidle _ _ _⟩
  | inLen =>
    cases hturn
    exact ⟨h.inWf, h.outWf, h.phaseOk.withInput hidle _ _ _⟩
  | status | outLen =>
    cases hturn
    exact h

theorem State.Inv.loadByte {a : Nat} {b : Byte} (h : s.Inv) (hturn : loadByte a b s = .next t) : t.Inv := by
  unfold Machine.loadByte at hturn
  split_ifs at hturn with hbusy
  cases hturn
  exact ⟨Memory.write_wf a b h.inWf, h.outWf, h.phaseOk.withInput (Bool.eq_false_iff.mpr hbusy) _ _ _⟩

/-- Each turn of the host keeps the invariant. -/
theorem State.Inv.hostTurn {act : HostAct} (h : s.Inv) (hturn : hostTurn act s = .next t) : t.Inv := by
  cases act with
  | writeReg r v =>
    unfold Machine.hostTurn at hturn
    dsimp only at hturn
    split_ifs at hturn with hbusy
    · cases hturn
      exact h
    · exact h.writeIdle (Bool.eq_false_iff.mpr hbusy) hturn
  | readReg r =>
    cases hturn
    exact h.withHost _ _
  | loadIn a b => exact h.loadByte hturn
  | readOut a =>
    unfold Machine.hostTurn at hturn
    dsimp only at hturn
    split_ifs at hturn
    cases hturn
    exact h.withHost _ _
  | powerOnReset =>
    cases hturn
    exact State.inv_of_idle rfl rfl rfl rfl
  | pass => exact h.engineTurn hturn
  | pollDone =>
    unfold Machine.hostTurn at hturn
    dsimp only at hturn
    split_ifs at hturn
    · cases hturn
      exact h.withHost _ _
    · exact (h.withHost _ _).engineTurn hturn

end Host

/-- Settles O55: a step is a turn of the engine or of the host. -/
theorem stepKeepsTheInvariant : Obligations.StepKeepsTheInvariant := by
  intro s t h hstep
  cases hhost : s.host with
  | nil => exact h.engineTurn ((step_of_host_nil hhost).symm.trans hstep)
  | cons act rest => exact (h.withHost rest s.hostData).hostTurn ((step_of_host_cons hhost).symm.trans hstep)

/-! ### Every call ends -/

/-- A call that runs under the source's limits with no host turn waiting, at most `n` steps from its end. -/
structure State.EndsWithin (n : Nat) (s : State) : Prop where
  phaseOk : s.PhaseOk
  covered : s.inCovered
  alphabets : alphabetsOk s.cfg
  host : s.host = []
  near : s.phase = .done ∨ s.phase ≠ .idle ∧ s.measure ≤ n

section Ends
variable {s t : State} {n : Nat}

theorem State.PhaseOk.ended (h : s.PhaseOk) (hdone : s.phase = .done) : s.ended := by
  unfold State.PhaseOk at h
  rw [hdone] at h
  exact h.symm

/-- Every phase of a call has a step to go. -/
theorem State.measure_pos (hidle : s.phase ≠ .idle) (hdone : s.phase ≠ .done) : 1 ≤ s.measure := by
  unfold State.measure
  cases hphase : s.phase <;> simp_all

/-- A step brings the call one step closer to its end. -/
theorem State.EndsWithin.step (h : s.EndsWithin (n + 1)) (hdone : s.phase ≠ .done) :
    ∃ t, step s = .next t ∧ t.EndsWithin n := by
  obtain ⟨hidle, hm⟩ := h.near.resolve_left hdone
  obtain ⟨t, hturn, hok, hnear⟩ := h.phaseOk.engineTurn_next h.covered h.alphabets hidle hdone
  have hframe := engineTurn_framed hturn
  obtain ⟨hcovered, halphabets⟩ := hframe.sourceLimits.mpr ⟨h.covered, h.alphabets⟩
  exact ⟨t, (step_of_host_nil h.host).trans hturn, hok, hcovered, halphabets, hframe.host.trans h.host,
    hnear.imp_right fun ⟨hne, hlt⟩ => ⟨hne, by omega⟩⟩

theorem State.EndsWithin.run (h : s.EndsWithin n) :
    ∃ k u, k ≤ n ∧ Sys2Proof.core.run k s = .next u ∧ u.phase = .done ∧ u.ended := by
  induction n generalizing s with
  | zero =>
    have hdone : s.phase = .done := by
      by_contra hdone
      obtain ⟨hidle, hm⟩ := h.near.resolve_left hdone
      have hpos := State.measure_pos hidle hdone
      omega
    exact ⟨0, s, Nat.le_refl 0, rfl, hdone, h.phaseOk.ended hdone⟩
  | succ n ih =>
    by_cases hdone : s.phase = .done
    · exact ⟨0, s, Nat.zero_le _, rfl, hdone, h.phaseOk.ended hdone⟩
    · obtain ⟨t, hstep, ht⟩ := h.step hdone
      obtain ⟨k, u, hk, hrun, hend⟩ := ih ht
      exact ⟨k + 1, u, Nat.succ_le_succ hk, run_succ_next.mpr ⟨t, hstep, hrun⟩, hend⟩

end Ends

/-- Settles O58: START opens a call whose bound is `8 * IN_LEN + 4`, and every step lowers the bound. -/
theorem everyCallTerminates : Obligations.EveryCallTerminates := by
  intro s t h hcovered halphabets hhost hidle hstart
  rw [exec_cmdStart_of_idle hidle hstart]
  exact State.EndsWithin.run {
    phaseOk := h.start.phaseOk
    covered := hcovered
    alphabets := halphabets
    host := hhost
    near := .inr ⟨nofun, Nat.le_refl _⟩ }

end Sys2Proof.Machine
